-- ==== Sys2Proof/Word.lean ====
section
/-! DEFINITION. The widths of the data the block holds: bytes, 32-bit words, a 16-byte block and the 32-byte key
buffer. Rules R8, R9, R10 of spec/00_scope.md; R15, R16 of spec/10_state.md. -/

namespace Sys2Proof

/-- A byte is 8 bits, unsigned (R8). -/
abbrev Byte := BitVec 8

/-- A 32-bit register value, command word or schedule word. A schedule word `[b0, b1, b2, b3]` is the number
`b0 ‖ b1 ‖ b2 ‖ b3` (R10). -/
abbrev Word := BitVec 32

/-- A block is exactly 16 bytes, byte 0 first (R7, R9). It is read as a 4×4 matrix in column-major order:
the byte in row `r`, column `c` is byte `r + 4 * c` (R11). -/
abbrev Block := Vector Byte 16

/-- The key buffer is 32 bytes, byte 0 first (R15). -/
abbrev KeyBuffer := Vector Byte 32

end Sys2Proof
end

