-- ==== Sys2Proof/Syntax.lean ====
section
/-! DEFINITION. The seven commands, one constructor per row of spec/opcode_table.json
(R47, R48 of spec/30_encoding.md). -/

namespace Sys2Proof

/-- A command with its explicit operands. The key length and the handles are numbers (they are compared with 16, 24,
32 and with NCTX, R72), the operands of the helper units are bytes. DESIGN CHOICE (log 16), safe: the bound 0..255
of a numeric operand is WellFormed's. -/
inductive Instr
  /-- `KEYEXP klen`: expand `KEY[0..klen-1]` into the lowest free slot (R80). -/
  | keyexp (klen : Nat)
  /-- `ENC h`: encrypt `DIN` under slot `h` (R94). -/
  | enc (h : Nat)
  /-- `DEC h`: decrypt `DIN` under slot `h` (R100). -/
  | dec (h : Nat)
  /-- `RELEASE h`: free slot `h` (R106). -/
  | release (h : Nat)
  /-- `SBOX x`: substitute one byte (R65). -/
  | sbox (x : Byte)
  /-- `INVSBOX x`: substitute one byte by the inverse table (R68). -/
  | invsbox (x : Byte)
  /-- `GFMUL a, b`: multiply in GF(2^8) (R62). -/
  | gfmul (a b : Byte)
  deriving DecidableEq, Repr

/-- The mnemonic of a command, in upper case (R53). -/
def Instr.mnemonic : Instr → String
  | .keyexp _ => "KEYEXP"
  | .enc _ => "ENC"
  | .dec _ => "DEC"
  | .release _ => "RELEASE"
  | .sbox _ => "SBOX"
  | .invsbox _ => "INVSBOX"
  | .gfmul _ _ => "GFMUL"

/-- The operands of a command as numbers, in the order of its assembler line (R53). -/
def Instr.operands : Instr → List Nat
  | .keyexp klen => [klen]
  | .enc h => [h]
  | .dec h => [h]
  | .release h => [h]
  | .sbox x => [x.toNat]
  | .invsbox x => [x.toNat]
  | .gfmul a b => [a.toNat, b.toNat]

end Sys2Proof
end

