-- ==== Sys2Proof/WellFormed.lean ====
section
/-! DEFINITION. Which commands have an encoding: every operand fits the unsigned byte of its field
(R48, R53 of spec/30_encoding.md: "An operand outside 0..255 is an assembly error, not a command"). -/

namespace Sys2Proof

/-- The numeric operands are in 0..255. A byte operand fits by its type. -/
def Instr.wellFormed : Instr → Bool
  | .keyexp klen => decide (klen ≤ 255)
  | .enc h => decide (h ≤ 255)
  | .dec h => decide (h ≤ 255)
  | .release h => decide (h ≤ 255)
  | .sbox _ => true
  | .invsbox _ => true
  | .gfmul _ _ => true

end Sys2Proof
end

