-- ==== Sys2Proof/Decode.lean ====
section
/-! DEFINITION. Command words: their fields, the strict and total decoder (R46 to R50 of spec/30_encoding.md), the
encoder, the rows of the opcode map and the operand check of the assembler (R53). There are no prefixes, no variable
length and no mode bit (R46, R52). -/

namespace Sys2Proof

/-- `OP`, bits 3:0 (R46). -/
def fieldOP (c : Word) : BitVec 4 := c.extractLsb' 0 4

/-- `Z0`, bits 7:4, must be 0 (R46). -/
def fieldZ0 (c : Word) : BitVec 4 := c.extractLsb' 4 4

/-- `A`, bits 15:8, the first operand (R46, R48). -/
def fieldA (c : Word) : Byte := c.extractLsb' 8 8

/-- `B`, bits 23:16, the second operand (R46, R48). -/
def fieldB (c : Word) : Byte := c.extractLsb' 16 8

/-- `Z1`, bits 31:24, must be 0 (R46). -/
def fieldZ1 (c : Word) : Byte := c.extractLsb' 24 8

/-- Why a word encodes no command: the three tests of R49, in its order. DESIGN CHOICE (log 18), safe: the names are
the model's; every illegal word executes in the same way (R50). -/
inductive Illegal
  /-- `Z0` or `Z1` is not 0. -/
  | reservedField
  /-- `OP` is 0x0 or 0x8..0xF. -/
  | reservedOpcode
  /-- `B` is not 0 and `OP` is not GFMUL's. -/
  | operandB
  deriving DecidableEq, Repr

/-- The row of R47 with `OP = op`, its operands assembled from `A` and `B` as R48 says. -/
def rowCommand (op : Nat) (a b : Byte) : Except Illegal Instr :=
  match op with
  | 1 => .ok (.keyexp a.toNat)
  | 2 => .ok (.enc a.toNat)
  | 3 => .ok (.dec a.toNat)
  | 4 => .ok (.release a.toNat)
  | 5 => .ok (.sbox a)
  | 6 => .ok (.invsbox a)
  | 7 => .ok (.gfmul a b)
  | _ => .error .reservedOpcode

/-- The decoder of R49: strict, total, each word a command or illegal. -/
def decode (c : Word) : Except Illegal Instr :=
  if fieldZ0 c ≠ 0 ∨ fieldZ1 c ≠ 0 then .error .reservedField
  else if (fieldOP c).toNat = 0 ∨ 8 ≤ (fieldOP c).toNat then .error .reservedOpcode
  else if (fieldOP c).toNat ≠ 7 ∧ fieldB c ≠ 0 then .error .operandB
  else rowCommand (fieldOP c).toNat (fieldA c) (fieldB c)

/-- "So a command word is `OP + (A << 8) + (B << 16)`" (R46). -/
def commandWord (op a b : Nat) : Word := BitVec.ofNat 32 (op + (a <<< 8) + (b <<< 16))

/-- The encoder, from the opcode map of R47 and the operands of R48. Only for a well-formed command is the word that
command's: an operand past 255 would run out of its field (log 16). -/
def encode : Instr → Word
  | .keyexp klen => commandWord 0x1 klen 0
  | .enc h => commandWord 0x2 h 0
  | .dec h => commandWord 0x3 h 0
  | .release h => commandWord 0x4 h 0
  | .sbox x => commandWord 0x5 x.toNat 0
  | .invsbox x => commandWord 0x6 x.toNat 0
  | .gfmul a b => commandWord 0x7 a.toNat b.toNat

/-- One row of the opcode map (R47): a word `c` selects it when `c and mask = match`. -/
structure OpcodeRow where
  mnemonic : String
  mask : Word
  pattern : Word
  deriving DecidableEq, Repr

/-- The opcode map (R47; spec/opcode_table.json). -/
def opcodeTable : List OpcodeRow :=
  [⟨"KEYEXP", 0xFFFF00FF#32, 0x00000001#32⟩,
   ⟨"ENC", 0xFFFF00FF#32, 0x00000002#32⟩,
   ⟨"DEC", 0xFFFF00FF#32, 0x00000003#32⟩,
   ⟨"RELEASE", 0xFFFF00FF#32, 0x00000004#32⟩,
   ⟨"SBOX", 0xFFFF00FF#32, 0x00000005#32⟩,
   ⟨"INVSBOX", 0xFFFF00FF#32, 0x00000006#32⟩,
   ⟨"GFMUL", 0xFF0000FF#32, 0x00000007#32⟩]

/-- "A word `c` selects the row with `(c and mask) = match`" (R47). -/
def OpcodeRow.selects (row : OpcodeRow) (c : Word) : Bool := c &&& row.mask == row.pattern

/-- The command that an assembler line with this mnemonic and these operand numbers stands for (R53); none for an
unknown mnemonic, a wrong number of operands, or an operand outside 0..255 ("an assembly error, not a command").
DESIGN CHOICE (log 20), safe: the line's text is taken as already split into a mnemonic and numbers. -/
def assemble (mnemonic : String) (operands : List Nat) : Option Instr :=
  if operands.all (· ≤ 255) then
    match operands with
    | [a] =>
      if mnemonic = "KEYEXP" then some (.keyexp a)
      else if mnemonic = "ENC" then some (.enc a)
      else if mnemonic = "DEC" then some (.dec a)
      else if mnemonic = "RELEASE" then some (.release a)
      else if mnemonic = "SBOX" then some (.sbox (BitVec.ofNat 8 a))
      else if mnemonic = "INVSBOX" then some (.invsbox (BitVec.ofNat 8 a))
      else none
    | [a, b] => if mnemonic = "GFMUL" then some (.gfmul (BitVec.ofNat 8 a) (BitVec.ofNat 8 b)) else none
    | _ => none
  else none

/-- The 32-bit word that a row's bits `w` make: a command is one whole word (R46), its bits numbered as
spec/opcode_table.json numbers them, and the bits from `nbits` on are 0. -/
def tableWord (nbits w : Nat) : Word := BitVec.ofNat 32 (w % 2 ^ nbits)

/-- What the decoder reads from an opcode-table row's bits. -/
def decodeTableWord (nbits w : Nat) : Option Instr :=
  match decode (tableWord nbits w) with
  | .ok i => some i
  | .error _ => none

end Sys2Proof
end

