-- ==== Sys2Proof/Machine/Field.lean ====
section
/-! DEFINITION. Multiplication in GF(2^8) with reduction polynomial x^8+x^4+x^3+x+1 (R59, R60 of
spec/40_primitives.md). Bit i of a byte is the coefficient of x^i; addition is xor. -/

namespace Sys2Proof.Machine

/-- `xtime(a)`, multiplication by x (R59). -/
def xtime (a : Byte) : Byte := (a <<< 1) ^^^ (if a.getLsbD 7 then 0x1B#8 else 0x00#8)

/-- One turn of R60's loop, on the pair of `p` and the running `a`: bit `i` of `b` says whether `a` is added. -/
def gfmulTurn (b : Byte) (pa : Byte × Byte) (i : Nat) : Byte × Byte :=
  (if b.getLsbD i then pa.1 ^^^ pa.2 else pa.1, xtime pa.2)

/-- `gfmul(a, b)`: for `i` in 0..7, add `a · x^i` where bit `i` of `b` is set (R60). -/
def gfmul (a b : Byte) : Byte := ((List.range 8).foldl (gfmulTurn b) (0x00#8, a)).1

end Sys2Proof.Machine
end

