-- ==== Sys2Proof/Config.lean ====
section
/-! DEFINITION. What one instance of the block fixes: the open parameters `NCTX` and `BASE`
(spec/92_eei_decisions.md, "Open parameters, collected") and the fixed sizes of R7 of spec/00_scope.md. -/

namespace Sys2Proof.Config

/-- The range of the open parameter `NCTX`, the number of context slots: 1 <= NCTX <= 256 (R6). -/
abbrev legalNctx (n : Nat) : Prop := 1 ≤ n ∧ n ≤ 256

/-- DESIGN CHOICE (log 1), unsafe for a claim about `State.reset` alone: the number of slots of the instance whose
reset state is `State.reset`. R6 leaves NCTX open and says its test vectors use 4. Every other state carries its
own NCTX as the length of its context table, so that statements hold for every NCTX. -/
def nctxAtReset : Nat := 4

/-- The words one slot can hold: the largest schedule, 4·(14+1) (R21). -/
abbrev slotWords : Nat := 60

/-- The last offset of the register space at which a 32-bit register stands (R33). -/
def lastOffset : Nat := 0xFC

/-- The offset in the register space of an address as the requesters see it, for the platform's `BASE`; none for an
address that is not in the block's 256 bytes (R31, R32). No rule depends on `BASE` (D6), so the machine itself
works on offsets (log 8). -/
def offsetOf (base addr : Nat) : Option Nat :=
  if base ≤ addr ∧ addr < base + 256 then some (addr - base) else none

end Sys2Proof.Config
end

