-- ==== Sys2Proof/Machine/State.lean ====
section
/-! DEFINITION. The state of the block (R13 of spec/10_state.md), the requests it may receive (R33 of
spec/20_memory.md, R139 of spec/70_reset_and_hazards.md), how a step may stop, and the state after reset (R28). -/

namespace Sys2Proof.Machine

/-- One context slot, `CTX[h]` (R21). -/
structure Slot where
  /-- `CTX[h].valid`: the slot holds a fully initialised context. -/
  valid : Bool
  /-- `CTX[h].nr`: the round count, 4 bits. -/
  nr : BitVec 4
  /-- `CTX[h].rk[0..59]`: the round key schedule. -/
  rk : Vector Word Config.slotWords
  deriving DecidableEq, Repr

/-- The one value of a free slot: `valid`, `nr` and all 60 words zero (R28, R106). -/
def Slot.free : Slot where
  valid := false
  nr := 0
  rk := Vector.replicate Config.slotWords 0

/-- What a requester may issue. Only an aligned 4-byte read or write inside the register space has a meaning (R33);
the other forms are here so that the model can refuse them by name (R38). -/
inductive Access
  /-- A read of `bytes` bytes at offset `off`; with `bytes = 4` it is `RegRead(off)`. -/
  | read (bytes off : Nat)
  /-- A write of `bytes` bytes at offset `off`; with `bytes = 4` it is `RegWrite(off, v)`. -/
  | write (bytes off : Nat) (v : Word)
  /-- A burst of `beats` transfers from offset `off`. -/
  | burst (beats off : Nat)
  deriving DecidableEq, Repr

/-- What may happen to the block from outside, complete (R139): an access by a requester, or reset (R127). -/
inductive Event
  | access (requester : Nat) (a : Access)
  | reset
  deriving DecidableEq, Repr

/-- The value a read returned, and the requester that issued the read. -/
structure Response where
  requester : Nat
  data : Word
  deriving DecidableEq, Repr

/-- The whole architectural state of the block (R13), and the requesters' side of its register space. -/
structure State where
  /-- `KEY[0..31]` (R15). -/
  key : KeyBuffer
  /-- `DIN[0..15]` (R16). -/
  din : Block
  /-- `DOUT[0..15]` (R17). -/
  dout : Block
  /-- `RES` (R18). -/
  res : Word
  /-- `STATUS.ERR`, STATUS[3:0] (R20). DESIGN CHOICE (log 5), safe: the implemented bits of STATUS are two fields. -/
  err : BitVec 4
  /-- `STATUS.MISUSE`, STATUS[4] (R20). -/
  misuse : Bool
  /-- `CTX[0..NCTX-1]` (R21). DESIGN CHOICE (log 1): NCTX is the length of this list. -/
  ctx : List Slot
  /-- The MODEL's own field (log 2): the events still to come, in the total order of R41. -/
  pending : List Event
  /-- The MODEL's own field (log 2): what the reads returned, oldest first (R41(d)). -/
  responses : List Response
  deriving DecidableEq, Repr

/-- The reasons a step can stop the machine with a fault. There is none: an error of a command writes `STATUS` and
the block goes on (R113), and "The block never halts" (R138). That a run with `MISUSE` = 1 counts as faulted
(R108) is a predicate of Sys2Proof/Safety.lean (log 6). -/
inductive Fault
  deriving DecidableEq, Repr

/-- The reasons a step can be refused. -/
inductive Refusal
  /-- Raised by an arm of `exec` that has no meaning yet; safe. No arm of this model raises it. -/
  | notModelled (mnemonic : String)
  /-- Raised by the access check for a read or write that is not 32 bits wide; safe (R33, R38). -/
  | accessWidth (bytes : Nat)
  /-- Raised by the access check for an offset that is not a multiple of 4; safe (R33, R38). -/
  | accessMisaligned (off : Nat)
  /-- Raised by the access check for an aligned 32-bit access past 0xFC, outside the register space; safe (R31, R33). -/
  | accessOutside (off : Nat)
  /-- Raised by the access check for a burst; safe (R33, R38). -/
  | accessBurst (beats off : Nat)
  deriving DecidableEq, Repr

/-- The state after reset of a block with `n` context slots (R28): all buffers zero, `RES` and `STATUS` zero, every
slot free; no event to come and no answer given. -/
def State.resetWith (n : Nat) : State where
  key := Vector.replicate 32 0
  din := Vector.replicate 16 0
  dout := Vector.replicate 16 0
  res := 0
  err := 0
  misuse := false
  ctx := List.replicate n Slot.free
  pending := []
  responses := []

/-- The state right after reset (R28) of the instance with `Config.nctxAtReset` slots. -/
def State.reset : State := State.resetWith Config.nctxAtReset

end Sys2Proof.Machine
end

