-- ==== Sys2Proof/Machine/Flags.lean ====
section
/-! DEFINITION. The status register: error codes and classes (R112, R120 of spec/60_exceptions.md), the word that a
read of STATUS gives (R20 of spec/10_state.md). There are no other flags (R20). -/

namespace Sys2Proof.Machine

/-- The errors of R112. -/
inductive Err
  | invalidKeyLength
  | invalidBlockLength
  | invalidContext
  | noFreeContext
  | illegalCommand
  deriving DecidableEq, Repr

/-- `code(E)` (R112); code 0 is OK. -/
def Err.code : Err → BitVec 4
  | .invalidKeyLength => 1
  | .invalidBlockLength => 2
  | .invalidContext => 3
  | .noFreeContext => 4
  | .illegalCommand => 5

/-- The misuse class: `InvalidBlockLength` and `InvalidContext` (R120); the others are recoverable. -/
def Err.isMisuse : Err → Bool
  | .invalidKeyLength => false
  | .invalidBlockLength => true
  | .invalidContext => true
  | .noFreeContext => false
  | .illegalCommand => false

/-- `MISUSE` after an error: sticky, set by the misuse class (R20). DEDUCED (log 9), safe: R12, R20 and R120 speak of
the class, R113 of `InvalidContext`, "the only misuse-class error that can occur". -/
def misuseAfter (old : Bool) (e : Err) : Bool := old || e.isMisuse

/-- `STATUS` as one 32-bit word: bits 31:5 hardwired 0, bit 4 `MISUSE`, bits 3:0 `ERR` (R20). -/
def State.statusWord (s : State) : Word := (0 : BitVec 27) ++ BitVec.ofBool s.misuse ++ s.err

end Sys2Proof.Machine
end

