-- ==== Sys2Proof/Machine/Operands.lean ====
section
/-! DEFINITION. Operand forms: the bytes of a word and of a register (R10 of spec/00_scope.md, R36 of
spec/20_memory.md), the key operand (R15), the handle operand and the slot it names (R21, R48), the byte result (R18). -/

namespace Sys2Proof.Machine

/-- The word `[b0, b1, b2, b3]` as the number `b0 ‖ b1 ‖ b2 ‖ b3` (R10). -/
def wordOf (b0 b1 b2 b3 : Byte) : Word := b0 ++ b1 ++ b2 ++ b3

/-- Byte `k` of a word, `w.bk`: `b0` in bits 31:24, `b3` in bits 7:0 (R10). -/
def wordByte (w : Word) (k : Nat) : Byte := w.extractLsb' (24 - 8 * k) 8

/-- `zext_32` of a byte (R8, R18). -/
def zext32 (b : Byte) : Word := b.setWidth 32

/-- Register `XW[j]` of a buffer: `X[4j] ‖ X[4j+1] ‖ X[4j+2] ‖ X[4j+3]` (R36). The register map names no `j` past the
buffer's end, so the 0 that stands for a byte there is never read (log 11). -/
def packWord {n : Nat} (buf : Vector Byte n) (j : Nat) : Word :=
  wordOf (buf[4 * j]?.getD 0) (buf[4 * j + 1]?.getD 0) (buf[4 * j + 2]?.getD 0) (buf[4 * j + 3]?.getD 0)

/-- The buffer after `XW[j]` is written: its bytes `4j..4j+3` are the bytes of `v` in order (R36). -/
def unpackWord {n : Nat} (buf : Vector Byte n) (j : Nat) (v : Word) : Vector Byte n :=
  Vector.ofFn fun i : Fin n => if i.val / 4 = j then wordByte v (i.val % 4) else buf[i]

/-- `KEY[0..klen-1]` (R15, R80). -/
def State.keyBytes (s : State) (klen : Nat) : List Byte := s.key.toList.take klen

/-- `NCTX` (R6). -/
def State.nctx (s : State) : Nat := s.ctx.length

/-- The live slot that handle `h` names: none when `h >= NCTX` or `CTX[h].valid` = 0 (R94, R100, R106). -/
def State.liveSlot? (s : State) (h : Nat) : Option Slot :=
  match s.ctx[h]? with
  | some slot => if slot.valid then some slot else none
  | none => none

/-- `min { i in 0..NCTX-1 | CTX[i].valid = 0 }`, none when every slot is live (R79). -/
def State.lowestFree? (s : State) : Option Nat := s.ctx.findIdx? fun slot => !slot.valid

/-- `zext_32(h)`, the 8-bit handle in 32 bits (R18, R21). -/
def handleWord (h : Nat) : Word := zext32 (BitVec.ofNat 8 h)

/-- Word `j` of a slot's schedule. A live slot's round count is 10, 12 or 14, so no command asks for a word past 59,
and the 0 that stands for one is never read from a state of a run (R21, R22; log 11). -/
def Slot.word (slot : Slot) (j : Nat) : Word := slot.rk[j]?.getD 0

end Sys2Proof.Machine
end

