-- ==== Sys2Proof/Machine/Ops.lean ====
section
/-! DEFINITION. The named operations on the state: ending a command with an error or without one (R113 of
spec/60_exceptions.md, R12 of spec/00_scope.md), the reset event (R127), the registers (R34 to R36, R39 of
spec/20_memory.md), and the writes a command may make (R29 of spec/10_state.md). -/

namespace Sys2Proof.Machine

/-- `raise E`: `ERR <- code(E)`, `MISUSE` set if `E` is of the misuse class, nothing else (R113). It transfers no
control, and there is no return from it (R121). -/
def State.raise (s : State) (e : Err) : State :=
  { s with err := e.code, misuse := misuseAfter s.misuse e }

/-- `done`: `ERR <- 0`; `MISUSE` is never cleared by a command (R12, R20). -/
def State.done (s : State) : State := { s with err := 0 }

/-- `RES <- v` (R18). -/
def State.setRes (s : State) (v : Word) : State := { s with res := v }

/-- `DOUT[0..15] <- b`, all 16 bytes at once (R17). -/
def State.setDout (s : State) (b : Block) : State := { s with dout := b }

/-- `CTX[h] <- slot`. -/
def State.setSlot (s : State) (h : Nat) (slot : Slot) : State := { s with ctx := s.ctx.set h slot }

/-- `RES <- zext_32(b)`, then `done`: how SBOX, INVSBOX and GFMUL end (R62, R65, R68). -/
def State.byteResult (s : State) (b : Byte) : State := (s.setRes (zext32 b)).done

/-- The state after the reset event: every element at its value of R28, NCTX as before (R127, R139). The requesters'
side is outside the block and keeps its events and answers: DESIGN CHOICE (log 12). -/
def State.resetEvent (s : State) : State :=
  { State.resetWith s.nctx with pending := s.pending, responses := s.responses }

/-- `RegRead(off)` for an aligned offset of the register space: STATUS, RES and DOUTW[j] give their content; a
write-only register (CMD, KEYW, DINW) and a reserved offset give 0 (R34, R35, R39). -/
def State.regRead (s : State) (off : Nat) : Word :=
  if off = 0x04 then s.statusWord
  else if off = 0x08 then s.res
  else if 0x40 ≤ off ∧ off ≤ 0x4C then packWord s.dout ((off - 0x40) / 4)
  else 0

/-- `RegWrite(off, v)` for every offset but CMD's: KEYW[j] and DINW[j] replace their 4 bytes; a read-only register
and a reserved offset change nothing (R34, R35, R36, R39). -/
def State.regStore (s : State) (off : Nat) (v : Word) : State :=
  if 0x10 ≤ off ∧ off ≤ 0x2C then { s with key := unpackWord s.key ((off - 0x10) / 4) v }
  else if 0x30 ≤ off ∧ off ≤ 0x3C then { s with din := unpackWord s.din ((off - 0x30) / 4) v }
  else s

/-- A read's value goes to the requester that issued the read (R41(d)). -/
def State.respond (s : State) (requester : Nat) (data : Word) : State :=
  { s with responses := s.responses ++ [⟨requester, data⟩] }

/-- The events still to come. -/
def State.setPending (s : State) (es : List Event) : State := { s with pending := es }

/-- Why an access has no meaning; none for an aligned 32-bit access inside the register space (R33, R38). The names are
the model's (log 10). -/
def Access.refusal? : Access → Option Refusal
  | .read bytes off => check bytes off
  | .write bytes off _ => check bytes off
  | .burst beats off => some (.accessBurst beats off)
where
  check (bytes off : Nat) : Option Refusal :=
    if bytes ≠ 4 then some (.accessWidth bytes)
    else if off % 4 ≠ 0 then some (.accessMisaligned off)
    else if Config.lastOffset < off then some (.accessOutside off)
    else none

end Sys2Proof.Machine
end

