-- ==== Sys2Proof/Machine/BlockTransform.lean ====
section
/-! DEFINITION. The Block Transform Engine and its commands ENC and DEC (R85 to R104 of spec/42_block_transform.md).
Byte `i` of a block stands in row `i % 4`, column `i / 4` of the state matrix (R11). A schedule is given as a function
from the word's index to the word. -/

namespace Sys2Proof.Machine

/-- The block whose byte in row `r`, column `c` is `f r c` (R11). -/
def blockOf (f : Nat → Nat → Byte) : Block := Vector.ofFn fun i : Fin 16 => f (i.val % 4) (i.val / 4)

/-- `s[r][c]`, the byte in row `r`, column `c`, both taken modulo 4 (R11). -/
def stateByte (s : Block) (r c : Nat) : Byte := s[r % 4 + 4 * (c % 4)]'(by omega)

/-- `AddRoundKey(s, rk, r)`: column `c` is xored with word `rk[4r + c]`, byte by byte (R86). -/
def addRoundKey (s : Block) (rk : Nat → Word) (r : Nat) : Block :=
  blockOf fun row col => stateByte s row col ^^^ wordByte (rk (4 * r + col)) row

/-- `SubBytes(s)` (R87). -/
def subBytes (s : Block) : Block := s.map sboxAt

/-- `InvSubBytes(s)` (R95). -/
def invSubBytes (s : Block) : Block := s.map invSboxAt

/-- `ShiftRows(s)`: row `r` is rotated left by `r` (R88). -/
def shiftRows (s : Block) : Block := blockOf fun row col => stateByte s row (col + row)

/-- `InvShiftRows(s)`: row `r` is rotated right by `r` (R96); `(c - r) mod 4` is `(c + 4 - r) mod 4` for `r` in 0..3. -/
def invShiftRows (s : Block) : Block := blockOf fun row col => stateByte s row (col + 4 - row)

/-- Each column times the circulant matrix with first row `m0 m1 m2 m3`: byte `r` of the product is the sum of
`m0 · a[r]`, `m1 · a[r+1]`, `m2 · a[r+2]` and `m3 · a[r+3]`, row numbers modulo 4 (R89, R97). -/
def mulColumns (m0 m1 m2 m3 : Byte) (s : Block) : Block :=
  blockOf fun row col =>
    gfmul m0 (stateByte s row col) ^^^ gfmul m1 (stateByte s (row + 1) col) ^^^
      gfmul m2 (stateByte s (row + 2) col) ^^^ gfmul m3 (stateByte s (row + 3) col)

/-- `MixColumns(s)`: the matrix with first row `02 03 01 01` (R89). -/
def mixColumns (s : Block) : Block := mulColumns 0x02#8 0x03#8 0x01#8 0x01#8 s

/-- `InvMixColumns(s)`: the matrix with first row `0E 0B 0D 09` (R97). -/
def invMixColumns (s : Block) : Block := mulColumns 0x0E#8 0x0B#8 0x0D#8 0x09#8 s

/-- A full forward round `r` (R90). -/
def fullRound (rk : Nat → Word) (s : Block) (r : Nat) : Block :=
  addRoundKey (mixColumns (shiftRows (subBytes s))) rk r

/-- The final forward round omits MixColumns (R91). -/
def finalRound (rk : Nat → Word) (s : Block) (nr : Nat) : Block := addRoundKey (shiftRows (subBytes s)) rk nr

/-- `Cipher(in, rk, Nr)`: the initial round-key xor, rounds 1 to Nr-1, the final round (R92, R93). -/
def cipher (b : Block) (rk : Nat → Word) (nr : Nat) : Block :=
  finalRound rk ((List.range' 1 (nr - 1)).foldl (fullRound rk) (addRoundKey b rk 0)) nr

/-- An inverse round `r` (R98). -/
def invRound (rk : Nat → Word) (s : Block) (r : Nat) : Block :=
  invMixColumns (addRoundKey (invSubBytes (invShiftRows s)) rk r)

/-- The final inverse round (R98). -/
def invFinalRound (rk : Nat → Word) (s : Block) : Block := addRoundKey (invSubBytes (invShiftRows s)) rk 0

/-- `InvCipher(in, rk, Nr)`: round keys Nr, Nr-1, ..., 0 of the same schedule (R99). -/
def invCipher (b : Block) (rk : Nat → Word) (nr : Nat) : Block :=
  invFinalRound rk ((List.range' 1 (nr - 1)).reverse.foldl (invRound rk) (addRoundKey b rk nr))

/-- `Cipher` with a slot's schedule and round count. -/
def Slot.encrypt (slot : Slot) (b : Block) : Block := cipher b slot.word slot.nr.toNat

/-- `InvCipher` with a slot's schedule and round count. -/
def Slot.decrypt (slot : Slot) (b : Block) : Block := invCipher b slot.word slot.nr.toNat

/-- ENC (R94): `DOUT <- Cipher(DIN, CTX[h].rk, CTX[h].nr)`, or `InvalidContext` with DOUT kept. -/
def execEnc (h : Nat) (s : State) : Host.Outcome State Fault Refusal :=
  match s.liveSlot? h with
  | none => .next (s.raise .invalidContext)
  | some slot => .next (s.setDout (slot.encrypt s.din)).done

/-- DEC (R100): `DOUT <- InvCipher(DIN, CTX[h].rk, CTX[h].nr)`, or `InvalidContext` with DOUT kept. -/
def execDec (h : Nat) (s : State) : Host.Outcome State Fault Refusal :=
  match s.liveSlot? h with
  | none => .next (s.raise .invalidContext)
  | some slot => .next (s.setDout (slot.decrypt s.din)).done

end Sys2Proof.Machine
end

