-- ==== Sys2Proof/Machine/KeySchedule.lean ====
section
/-! DEFINITION. The Key Schedule Engine and KEYEXP (R73 to R84 of spec/41_key_expand.md). -/

namespace Sys2Proof.Machine

/-- The accepted key lengths (R74). -/
abbrev validKeyLength (klen : Nat) : Prop := klen = 16 ∨ klen = 24 ∨ klen = 32

/-- `Nk = klen / 4` (R7). -/
def keyWordCount (klen : Nat) : Nat := klen / 4

/-- `Nr = Nk + 6` (R7): 10, 12 or 14 for an accepted length. -/
def roundCount (klen : Nat) : Nat := keyWordCount klen + 6

/-- `4·(Nr+1)`: 44, 52 or 60 (R77). -/
def scheduleLength (klen : Nat) : Nat := 4 * (roundCount klen + 1)

/-- `w[i] = [key[4i], key[4i+1], key[4i+2], key[4i+3]]` (R75). -/
def keyWord (key : List Byte) (i : Nat) : Word :=
  wordOf (key.getD (4 * i) 0) (key.getD (4 * i + 1) 0) (key.getD (4 * i + 2) 0) (key.getD (4 * i + 3) 0)

/-- `w[i]` for `i >= Nk`, from `w[i-1]` and `w[i-Nk]`, where the list holds `w[0..i-1]` (the loop body of R76). -/
def nextWord (nk : Nat) (w : List Word) : Word :=
  let i := w.length
  let prev := w.getD (i - 1) 0
  let t :=
    if i % nk = 0 then subWord (rotWord prev) ^^^ rconWord (i / nk)
    else if nk = 8 ∧ i % nk = 4 then subWord prev
    else prev
  w.getD (i - nk) 0 ^^^ t

/-- `n` more words, in ascending order (the second loop of R76). -/
def extendSchedule (nk : Nat) : Nat → List Word → List Word
  | 0, w => w
  | n + 1, w => extendSchedule nk n (w ++ [nextWord nk w])

/-- The words `w[0..4·(Nr+1)-1]` of `KeyExpansion(key)` (R76); its `Nr` is `roundCount key.length`. -/
def keyExpansion (key : List Byte) : List Word :=
  let nk := keyWordCount key.length
  extendSchedule nk (scheduleLength key.length - nk) ((List.range nk).map (keyWord key))

/-- The slot KEYEXP makes of a key: live, its `nr`, the schedule, and zero in every word past it (R80). -/
def newContext (key : List Byte) : Slot where
  valid := true
  nr := BitVec.ofNat 4 (roundCount key.length)
  rk := Vector.ofFn fun j : Fin Config.slotWords => (keyExpansion key).getD j.val 0

/-- KEYEXP (R80): the length is checked first, then a free slot is looked for (R119); on either error nothing but
STATUS changes. -/
def execKeyexp (klen : Nat) (s : State) : Host.Outcome State Fault Refusal :=
  if validKeyLength klen then
    match s.lowestFree? with
    | none => .next (s.raise .noFreeContext)
    | some h => .next ((s.setSlot h (newContext (s.keyBytes klen))).setRes (handleWord h)).done
  else .next (s.raise .invalidKeyLength)

end Sys2Proof.Machine
end

