-- ==== Sys2Proof/Machine/Lifecycle.lean ====
section
/-! DEFINITION. The end of a context: RELEASE (R105 to R111 of spec/43_context_lifecycle.md). -/

namespace Sys2Proof.Machine

/-- RELEASE (R106): the live slot `h` becomes free, its `nr` and all its words zero; or `InvalidContext`. -/
def execRelease (h : Nat) (s : State) : Host.Outcome State Fault Refusal :=
  match s.liveSlot? h with
  | none => .next (s.raise .invalidContext)
  | some _ => .next (s.setSlot h Slot.free).done

end Sys2Proof.Machine
end

