-- ==== Sys2Proof/Machine/Primitives.lean ====
section
/-! DEFINITION. The three helper units as commands: GFMUL, SBOX, INVSBOX (R62, R65, R68 of spec/40_primitives.md). -/

namespace Sys2Proof.Machine

/-- GFMUL (R62): `RES <- zext_32(gfmul(a, b))`; no error. -/
def execGfmul (a b : Byte) (s : State) : Host.Outcome State Fault Refusal := .next (s.byteResult (gfmul a b))

/-- SBOX (R65): `RES <- zext_32(SBOX[x])`; no error. -/
def execSbox (x : Byte) (s : State) : Host.Outcome State Fault Refusal := .next (s.byteResult (sboxAt x))

/-- INVSBOX (R68): `RES <- zext_32(INVSBOX[x])`; no error. -/
def execInvsbox (x : Byte) (s : State) : Host.Outcome State Fault Refusal := .next (s.byteResult (invSboxAt x))

end Sys2Proof.Machine
end

