-- ==== Sys2Proof/Machine/Dispatch.lean ====
section
/-! DEFINITION. One arm per command: which meaning runs it. -/

namespace Sys2Proof.Machine

/-- The effect of a command on the state (R47: the column "semantics"). -/
def exec (i : Instr) (s : State) : Host.Outcome State Fault Refusal :=
  match i with
  | .keyexp klen => Sys2Proof.Machine.execKeyexp klen s
  | .enc h => Sys2Proof.Machine.execEnc h s
  | .dec h => Sys2Proof.Machine.execDec h s
  | .release h => Sys2Proof.Machine.execRelease h s
  | .sbox x => Sys2Proof.Machine.execSbox x s
  | .invsbox x => Sys2Proof.Machine.execInvsbox x s
  | .gfmul a b => Sys2Proof.Machine.execGfmul a b s

end Sys2Proof.Machine
end

