-- ==== Sys2Proof/Machine/Command.lean ====
section
/-! DEFINITION. What one event does: a command word, a requester's access, the reset event (R19 of spec/10_state.md;
R33, R38, R39 of spec/20_memory.md; R50 of spec/30_encoding.md; R127 of spec/70_reset_and_hazards.md). -/

namespace Sys2Proof.Machine

/-- A command word written to CMD executes at once, whole (R19, R135); an illegal word ends with `IllegalCommand`
(R50, R118). -/
def execWord (c : Word) (s : State) : Host.Outcome State Fault Refusal :=
  match decode c with
  | .ok i => exec i s
  | .error _ => .next (s.raise .illegalCommand)

/-- `RegRead` and `RegWrite` (R33, R39). The only access with a side effect beyond the register it names is a write to
CMD, offset 0x00. -/
def State.regAccess (s : State) (requester : Nat) : Access → Host.Outcome State Fault Refusal
  | .read _ off => .next (s.respond requester (s.regRead off))
  | .write _ off v => if off = 0x00 then execWord v s else .next (s.regStore off v)
  | .burst beats off => .refused (.accessBurst beats off)

/-- A requester's access: refused when it has no meaning (R38), else performed. -/
def State.perform (s : State) (requester : Nat) (a : Access) : Host.Outcome State Fault Refusal :=
  match a.refusal? with
  | some r => .refused r
  | none => s.regAccess requester a

/-- What one event does to the state from which it has been taken (R139). -/
def State.happen (s : State) : Event → Host.Outcome State Fault Refusal
  | .access requester a => s.perform requester a
  | .reset => .next s.resetEvent

/-- The step on the list of events still to come. With no event the block waits and nothing changes (R30, R113, R138):
DEDUCED (log 17). -/
def State.stepOn (s : State) : List Event → Host.Outcome State Fault Refusal
  | [] => .next s
  | e :: rest => (s.setPending rest).happen e

/-- The event by which a requester issues the command word `c`: `RegWrite(0x00, c)` (R19, R39). -/
def cmdWrite (requester : Nat) (c : Word) : Event := .access requester (.write 4 0x00 c)

end Sys2Proof.Machine
end

