-- ==== Sys2Proof/Machine/Step.lean ====
section
/-! DEFINITION. One step: the next event of the total order `<` takes effect (R41 of spec/20_memory.md, R135 of
spec/70_reset_and_hazards.md). -/

namespace Sys2Proof.Machine

/-- One event takes effect, whole. -/
def step (s : State) : Host.Outcome State Fault Refusal := s.stepOn s.pending

/-- The state in which the next event is a write of this command word to CMD. There is no fetch and no stored program
(R14, R44): a command is delivered by a requester's write, here requester 0's (log 4). -/
def State.withFetchWord (s : State) (nbits w : Nat) : State :=
  s.setPending (cmdWrite 0 (tableWord nbits w) :: s.pending)

end Sys2Proof.Machine
end

