-- ==== Sys2Proof/Machine/Calls.lean ====
section
/-! DEFINITION. What a requester issues: the actions WRKEY, WRDIN, RDOUT, RDRES, RDSTATUS (R54 of
spec/30_encoding.md) and the four calls CREATE, ENCRYPT, DECRYPT, DESTROY as sequences of accesses (R55). -/

namespace Sys2Proof.Machine

/-- `WRKEY`: one write per word of the bytes, the last word padded with 0x00 bytes in its low bits (R54). DESIGN CHOICE
(log 22): R54 names n = 4, 6 or 8 words only. For any other count this is one write per begun word all the same: fewer
words for a short key, and past 32 bytes the writes run on behind KEYW[7], into DINW from 0x30. No call makes those. -/
def wrkey (bytes : List Byte) : List Access :=
  (List.range ((bytes.length + 3) / 4)).map fun j => .write 4 (0x10 + 4 * j) (keyWord bytes j)

/-- `WRDIN`: the four words of a block (R54). -/
def wrdin (b : Block) : List Access := (List.range 4).map fun j => .write 4 (0x30 + 4 * j) (packWord b j)

/-- `RDOUT`: the four reads that give the 16 bytes of DOUT (R54). -/
def rdout : List Access := (List.range 4).map fun j => .read 4 (0x40 + 4 * j)

/-- `RDRES` (R54). -/
def rdres : Access := .read 4 0x08

/-- `RDSTATUS` (R54). -/
def rdstatus : Access := .read 4 0x04

/-- A command, issued by writing its word to CMD (R19). -/
def issue (i : Instr) : Access := .write 4 0x00 (encode i)

/-- The source's four calls (R3, R55). -/
inductive Call
  | create (key : List Byte)
  | encrypt (h : Nat) (block : Block)
  | decrypt (h : Nat) (block : Block)
  | destroy (h : Nat)
  deriving DecidableEq, Repr

/-- Each call as the sequence of accesses that realises it (R55). A key longer than 32 bytes cannot be written to KEY:
its CREATE is `KEYEXP len(key)` alone, and with more than 255 bytes it cannot be presented at all (R48).
DEDUCED (log 19), safe: "alone" is read as that one access. A handle past 255 makes no command (R53), so ENCRYPT,
DECRYPT and DESTROY with one are no access at all: DESIGN CHOICE (log 23), safe. -/
def Call.accesses : Call → List Access
  | .create key =>
    if key.length ≤ 32 then wrkey key ++ [issue (.keyexp key.length), rdstatus, rdres]
    else if key.length ≤ 255 then [issue (.keyexp key.length)]
    else []
  | .encrypt h block => if h ≤ 255 then wrdin block ++ [issue (.enc h), rdstatus] ++ rdout else []
  | .decrypt h block => if h ≤ 255 then wrdin block ++ [issue (.dec h), rdstatus] ++ rdout else []
  | .destroy h => if h ≤ 255 then [issue (.release h), rdstatus] else []

/-- A call made by one requester, nothing of another's in between (R55, R130). -/
def Call.events (requester : Nat) (c : Call) : List Event := c.accesses.map (.access requester)

/-- The command that an event delivers to the core, if it is a 32-bit write of a legal word to CMD (R19, R49). -/
def Event.command? : Event → Option Instr
  | .access _ (.write 4 0x00 c) =>
    match decode c with
    | .ok i => some i
    | .error _ => none
  | _ => none

end Sys2Proof.Machine
end

