-- ==== Sys2Proof/Safety.lean ====
section
/-! DEFINITION. What counts as a safe run: the fault mark (R108 of spec/43_context_lifecycle.md), the invariant of the
state (R18, R20 to R22 of spec/10_state.md), a clean run (R138 of spec/70_reset_and_hazards.md), and the requesters'
duties that the block does not check (R109, R130, R131). -/

namespace Sys2Proof.Machine

/-- "A model should treat any state with `MISUSE` = 1 as faulted" (R108, R116). The block itself goes on, so this is a
mark on states (log 6). -/
abbrev State.Faulted (s : State) : Prop := s.misuse = true

/-- The error codes that a command can leave (R20, R112): 2 is assigned and never produced, 6..15 are unassigned. -/
def producedCodes : List (BitVec 4) := [0, 1, 3, 4, 5]

/-- What holds of every state from reset on. -/
structure State.Inv (s : State) : Prop where
  /-- NCTX is 1..256 (R6). -/
  nctx : Config.legalNctx s.nctx
  /-- A live slot holds the expansion of a key of 16, 24 or 32 bytes (R22), and zero past it (R80). -/
  live : ∀ slot ∈ s.ctx, slot.valid = true → ∃ key : List Byte, validKeyLength key.length ∧ slot = newContext key
  /-- A free slot has one value (R28, R106). -/
  free : ∀ slot ∈ s.ctx, slot.valid = false → slot = Slot.free
  /-- "So `RES[31:8]` is always 0" (R18). -/
  res : s.res.toNat < 256
  /-- `ERR` holds a code that is produced (R20). -/
  err : s.err ∈ producedCodes
  /-- `InvalidContext` leaves MISUSE set (R113). -/
  misuse : s.err = 3 → s.misuse = true

/-- The `n` steps from `s` end in a state, none of them refused, with MISUSE = 0 at the end (R138). -/
def cleanRun (n : Nat) (s : State) : Bool :=
  match Sys2Proof.core.run n s with
  | .next t => !t.misuse
  | .fault _ => false
  | .refused _ => false

/-- A handle and the requester that holds it: the requesters' own bookkeeping, which the block does not keep (R27,
R110). -/
abbrev Holding := Nat × Nat

/-- Does the event use only a handle that its requester holds? ENC, DEC and RELEASE name a handle; nothing else does
(R109: "only between the KEYEXP that returned `h` to it and its own `RELEASE h`"). -/
def usesHeld (held : List Holding) (e : Event) : Bool :=
  match e with
  | .reset => true
  | .access requester _ =>
    match e.command? with
    | some (.enc h) => decide ((requester, h) ∈ held)
    | some (.dec h) => decide ((requester, h) ∈ held)
    | some (.release h) => decide ((requester, h) ∈ held)
    | _ => true

/-- Who holds what after the event took `s` to `t`: a KEYEXP that succeeded gives its requester the handle in RES; a
RELEASE that succeeded ends every holding of that handle; reset ends all (R127, R131). -/
def heldAfter (held : List Holding) (e : Event) (t : State) : List Holding :=
  match e with
  | .reset => []
  | .access requester _ =>
    match e.command? with
    | some (.keyexp _) => if t.err = 0 then (requester, t.res.toNat) :: held else held
    | some (.release h) => if t.err = 0 then held.filter (·.2 ≠ h) else held
    | _ => held

/-- In the next `n` steps from `s` every access has a meaning and uses only handles its requester holds (R109, R131
duties 4, 5, 9). -/
def disciplined : Nat → List Holding → State → Bool
  | 0, _, _ => true
  | n + 1, held, s =>
    match s.pending with
    | [] => true
    | e :: _ =>
      usesHeld held e &&
        match step s with
        | .next t => disciplined n (heldAfter held e t) t
        | .fault _ => false
        | .refused _ => false

/-- The accesses of one requester, in the order it issued them (R41(b)). -/
def accessesOf (requester : Nat) (es : List Event) : List Access :=
  es.filterMap fun e =>
    match e with
    | .reset => none
    | .access r a => if r = requester then some a else none

/-- An order of events is an interleaving of the requesters' programs when each requester's accesses appear in it in
the order of its program (R41(a), (b)); nothing else is fixed. -/
def Interleaves (programs : Nat → List Access) (es : List Event) : Prop :=
  ∀ requester, accessesOf requester es = programs requester

/-- The requesters take turns: the events are whole calls, one after another (R130, R131 duty 7). DESIGN CHOICE (log 21):
R130 leaves the form of the mutual exclusion open. This form admits lists of whole CREATE, ENCRYPT, DECRYPT and DESTROY
calls only: a list with a helper command, a reset, a lone access or a cut-off last call is not `Serialised`, even with
one requester. -/
def Serialised (es : List Event) : Prop :=
  ∃ calls : List (Nat × Call), es = calls.flatMap fun p => p.2.events p.1

end Sys2Proof.Machine
end

