-- ==== Sys2Proof/Certificates/Slice0/Obligations.lean ====
section
/-! DEFINITION. The statements for the provers, from the numbered rules of spec/. Each is listed in OBLIGATIONS.json. -/

open Sys2Proof Sys2Proof.Machine

namespace Sys2Proof.Reference

/-- The word encodes no command. The reason's name is the model's (log 18). -/
def IsIllegal (c : Word) : Prop := ∃ e, decode c = .error e

/-- The carry-less product of two polynomials over GF(2), bit i being the coefficient of x^i; 16 bits hold every
product of degree at most 15. -/
def clmul (x y : BitVec 16) : BitVec 16 :=
  (List.range 16).foldl (fun p i => if y.getLsbD i then p ^^^ (x <<< i) else p) 0

/-- The affine map of R64's closed form. -/
def sboxAffine (b : Byte) : Byte :=
  b ^^^ b.rotateLeft 1 ^^^ b.rotateLeft 2 ^^^ b.rotateLeft 3 ^^^ b.rotateLeft 4 ^^^ 0x63#8

/-- Round key `r` as a block: its 16 bytes taken word by word and byte by byte (R86). -/
def roundKeyBlock (rk : Nat → Word) (r : Nat) : Block :=
  Vector.ofFn fun i : Fin 16 => wordByte (rk (4 * r + i.val / 4)) (i.val % 4)

/-- Two blocks xored byte by byte. -/
def xorBlock (a b : Block) : Block := Vector.ofFn fun i : Fin 16 => a[i] ^^^ b[i]

/-- The other arrangement that R98 names: InvMixColumns is applied to the round keys 1..Nr-1 beforehand, and the steps
of a round stand in the forward order. -/
def mirroredInvCipher (b : Block) (rk : Nat → Word) (nr : Nat) : Block :=
  let turn (s : Block) (r : Nat) : Block :=
    xorBlock (invMixColumns (invShiftRows (invSubBytes s))) (invMixColumns (roundKeyBlock rk r))
  let s := (List.range' 1 (nr - 1)).reverse.foldl turn (xorBlock b (roundKeyBlock rk nr))
  xorBlock (invShiftRows (invSubBytes s)) (roundKeyBlock rk 0)

/-- Commands one after another. -/
def runCommands : List Instr → State → Host.Outcome State Fault Refusal
  | [], s => .next s
  | i :: rest, s =>
    match exec i s with
    | .next t => runCommands rest t
    | .fault f => .fault f
    | .refused r => .refused r

/-- Slot `h` exists and is live. -/
def Live (s : State) (h : Nat) : Prop := ∃ slot, s.ctx[h]? = some slot ∧ slot.valid = true

/-- Slot `h` is the free slot with the lowest index (R79). -/
def LowestFree (s : State) (h : Nat) : Prop :=
  (∃ slot, s.ctx[h]? = some slot ∧ slot.valid = false) ∧ ∀ j, j < h → Live s j

/-- Every slot is live. -/
def Full (s : State) : Prop := ∀ slot ∈ s.ctx, slot.valid = true

/-- The state with the content of every slot, but not its `valid` bit, covered. -/
def covered (s : State) : State :=
  { s with ctx := s.ctx.map fun slot => { Slot.free with valid := slot.valid } }

/-- The words that reads of DOUTW[0..3] give for a block (R36), with the requester that reads. -/
def blockResponses (requester : Nat) (b : Block) : List Response :=
  (List.range 4).map fun j => ⟨requester, packWord b j⟩

/-- The schedule of the 16-byte zero key, word by word. -/
def zeroKeySchedule (j : Nat) : Word := (keyExpansion (List.replicate 16 0)).getD j 0

/-- The output block of the source's known-answer vector (R94, V1). -/
def exampleOutput : Block :=
  #v[0x66, 0xE9, 0x4B, 0xD4, 0xEF, 0x8A, 0x2C, 0x3B, 0x88, 0x4C, 0xFA, 0x59, 0xCA, 0x34, 0x2B, 0x2E]

/-- STATUS after a command that ended without error: only MISUSE can be set (R20). -/
def okStatus (misuse : Bool) : Word := if misuse then 0x00000010#32 else 0x00000000#32

end Sys2Proof.Reference

open Sys2Proof.Reference

/-! ### Encoding -/

/-- R56 (an inference the spec marks as its own, "derived: from rules R46, R47"): the worked encodings, each word
written out, encode and decode to the command beside them; the illegal words decode to none. -/
def Obligations.WorkedWordsDecodeAndEncode : Prop :=
  (∀ p ∈ ([(.keyexp 16, 0x00001001#32), (.keyexp 24, 0x00001801#32), (.keyexp 32, 0x00002001#32),
        (.keyexp 17, 0x00001101#32), (.enc 0, 0x00000002#32), (.enc 3, 0x00000302#32), (.dec 0, 0x00000003#32),
        (.release 1, 0x00000104#32), (.sbox 0x53#8, 0x00005305#32), (.invsbox 0xED#8, 0x0000ED06#32),
        (.gfmul 0x57#8 0x83#8, 0x00835707#32)] : List (Instr × Word)),
      decode p.2 = .ok p.1 ∧ encode p.1 = p.2) ∧
  ∀ c ∈ ([0x00000000#32, 0x00000008#32, 0x00010002#32, 0x00000012#32, 0x01000001#32] : List Word), IsIllegal c

/-- R58 (an inference the spec marks as its own, "derived: from rules R46, R47, R49"): `decode` and `encode` are
inverse on legal commands, in both directions, and no two different commands share a word. -/
def Obligations.DecodeAndEncodeAreInverse : Prop :=
  (∀ i : Instr, i.wellFormed = true → decode (encode i) = .ok i) ∧
  (∀ (c : Word) (i : Instr), decode c = .ok i → i.wellFormed = true ∧ encode i = c) ∧
  ∀ i j : Instr, i.wellFormed = true → j.wellFormed = true → encode i = encode j → i = j

/-- R49: the decoding of every 32-bit word, its fields read from the word as a number. -/
def Obligations.DecodeIsStrictAndTotal : Prop :=
  ∀ c : Word,
    let z0 := c.toNat / 2 ^ 4 % 16
    let z1 := c.toNat / 2 ^ 24
    let op := c.toNat % 16
    let a := c.toNat / 2 ^ 8 % 256
    let b := c.toNat / 2 ^ 16 % 256
    (z0 ≠ 0 ∨ z1 ≠ 0 → IsIllegal c) ∧
    (op = 0 ∨ 8 ≤ op → IsIllegal c) ∧
    (op ≠ 7 → b ≠ 0 → IsIllegal c) ∧
    (z0 = 0 → z1 = 0 →
      (op = 7 → decode c = .ok (.gfmul (BitVec.ofNat 8 a) (BitVec.ofNat 8 b))) ∧
      (b = 0 →
        (op = 1 → decode c = .ok (.keyexp a)) ∧ (op = 2 → decode c = .ok (.enc a)) ∧
        (op = 3 → decode c = .ok (.dec a)) ∧ (op = 4 → decode c = .ok (.release a)) ∧
        (op = 5 → decode c = .ok (.sbox (BitVec.ofNat 8 a))) ∧
        (op = 6 → decode c = .ok (.invsbox (BitVec.ofNat 8 a)))))

/-- R47: a word selects a row of the opcode map, by `(c and mask) = match`, exactly when it decodes to a command of
that row's mnemonic; the rows are disjoint. -/
def Obligations.OpcodeRowsAreSelectedByMaskAndMatch : Prop :=
  (∀ row ∈ opcodeTable, ∀ c : Word,
    c &&& row.mask = row.pattern ↔ ∃ i, decode c = .ok i ∧ i.mnemonic = row.mnemonic) ∧
  opcodeTable.Pairwise fun row row' => ∀ c : Word, ¬ (row.selects c = true ∧ row'.selects c = true)

/-- R50 (its count is an inference the spec marks as its own, "derived: from rule R49"): of the 2^32 words, 67072 are
legal. -/
def Obligations.LegalWordsAre67072 : Prop :=
  ∃ words : List Word, words.Nodup ∧ words.length = 67072 ∧ ∀ c : Word, c ∈ words ↔ ∃ i, decode c = .ok i

/-- R53: what the assembler accepts is a well-formed command of that mnemonic with those operands, and it accepts every
well-formed command; so an operand outside 0..255 makes no command. The line's text is taken as split (log 20). -/
def Obligations.AssemblerAcceptsOperandsUpTo255 : Prop :=
  (∀ (mnemonic : String) (operands : List Nat) (i : Instr), assemble mnemonic operands = some i →
    i.wellFormed = true ∧ i.mnemonic = mnemonic ∧ i.operands = operands ∧ ∀ a ∈ operands, a ≤ 255) ∧
  ∀ i : Instr, i.wellFormed = true → assemble i.mnemonic i.operands = some i

/-! ### Steps, accesses, registers -/

/-- R19, R39, R135: when the next event is a requester's 32-bit write of a word to CMD and the word decodes to `i`, the
step is `exec i` at the state with that event taken; so for the encoding of every well-formed command. -/
def Obligations.StepRunsTheDecodedCommand : Prop :=
  ∀ (s : State) (requester : Nat) (c : Word) (rest : List Event) (i : Instr),
    s.pending = .access requester (.write 4 0x00 c) :: rest →
    (decode c = .ok i → step s = exec i { s with pending := rest }) ∧
    (i.wellFormed = true → encode i = c → step s = exec i { s with pending := rest })

/-- R118: an illegal word written to CMD leaves ERR = 5 and no other mark; MISUSE is not set. -/
def Obligations.IllegalWordRaisesIllegalCommand : Prop :=
  ∀ (s : State) (requester : Nat) (c : Word) (rest : List Event),
    s.pending = .access requester (.write 4 0x00 c) :: rest → IsIllegal c →
    step s = .next { s with err := 5, pending := rest }

/-- R33, R38: an access is refused exactly when it is not a 4-byte read or write at a multiple of 4 in 0x00..0xFC. The
refusals' names are the model's (log 10). -/
def Obligations.OnlyAlignedWordAccessesAreServed : Prop :=
  ∀ (s : State) (requester : Nat) (a : Access) (rest : List Event),
    s.pending = .access requester a :: rest →
    ((∃ r, step s = .refused r) ↔
      ¬ ∃ off, off % 4 = 0 ∧ off ≤ 0xFC ∧ (a = .read 4 off ∨ ∃ v, a = .write 4 off v))

/-- R34, R39, R20: what a read of each register gives, and that a read changes nothing of the block. -/
def Obligations.RegisterReadsFollowTheMap : Prop :=
  ∀ (s : State) (requester : Nat) (rest : List Event) (off : Nat),
    s.pending = .access requester (.read 4 off) :: rest → off % 4 = 0 → off ≤ 0xFC →
    ∃ v, step s = .next { s with pending := rest, responses := s.responses ++ [⟨requester, v⟩] } ∧
      (off = 0x04 → v.toNat = s.err.toNat + 16 * s.misuse.toNat) ∧
      (off = 0x08 → v = s.res) ∧
      (0x40 ≤ off → off ≤ 0x4C → v = packWord s.dout ((off - 0x40) / 4)) ∧
      (off = 0x00 ∨ off = 0x0C ∨ (0x10 ≤ off ∧ off ≤ 0x3C) ∨ 0x50 ≤ off → v = 0)

/-- R35: a reserved offset holds nothing. -/
def Obligations.ReservedOffsetsHoldNothing : Prop :=
  ∀ (s : State) (requester : Nat) (rest : List Event) (off : Nat) (v : Word),
    off % 4 = 0 → off = 0x0C ∨ (0x50 ≤ off ∧ off ≤ 0xFC) →
    (s.pending = .access requester (.read 4 off) :: rest →
      step s = .next { s with pending := rest, responses := s.responses ++ [⟨requester, 0x00000000#32⟩] }) ∧
    (s.pending = .access requester (.write 4 off v) :: rest → step s = .next { s with pending := rest })

/-- R36: the packing of buffer bytes into registers, for KEYW, DINW and DOUTW, and the rule's example. -/
def Obligations.BufferRegistersAreBigEndian : Prop :=
  (∀ (s : State) (requester : Nat) (rest : List Event) (v : Word) (j : Nat), j < 4 →
    s.pending = .access requester (.write 4 (0x30 + 4 * j) v) :: rest →
    ∃ din : Block, step s = .next { s with din := din, pending := rest } ∧
      din[4 * j]? = some (v.extractLsb' 24 8) ∧ din[4 * j + 1]? = some (v.extractLsb' 16 8) ∧
      din[4 * j + 2]? = some (v.extractLsb' 8 8) ∧ din[4 * j + 3]? = some (v.extractLsb' 0 8) ∧
      ∀ i, i / 4 ≠ j → din[i]? = s.din[i]?) ∧
  (∀ (s : State) (requester : Nat) (rest : List Event) (v : Word) (j : Nat), j < 8 →
    s.pending = .access requester (.write 4 (0x10 + 4 * j) v) :: rest →
    ∃ key : KeyBuffer, step s = .next { s with key := key, pending := rest } ∧
      key[4 * j]? = some (v.extractLsb' 24 8) ∧ key[4 * j + 1]? = some (v.extractLsb' 16 8) ∧
      key[4 * j + 2]? = some (v.extractLsb' 8 8) ∧ key[4 * j + 3]? = some (v.extractLsb' 0 8) ∧
      ∀ i, i / 4 ≠ j → key[i]? = s.key[i]?) ∧
  (∀ (s : State) (requester : Nat) (rest : List Event) (j : Nat) (b0 b1 b2 b3 : Byte), j < 4 →
    s.pending = .access requester (.read 4 (0x40 + 4 * j)) :: rest →
    s.dout[4 * j]? = some b0 → s.dout[4 * j + 1]? = some b1 →
    s.dout[4 * j + 2]? = some b2 → s.dout[4 * j + 3]? = some b3 →
    step s = .next { s with pending := rest, responses := s.responses ++ [⟨requester, b0 ++ b1 ++ b2 ++ b3⟩] }) ∧
  wrdin #v[0x00, 0x11, 0x22, 0x33, 0x44, 0x55, 0x66, 0x77, 0x88, 0x99, 0xAA, 0xBB, 0xCC, 0xDD, 0xEE, 0xFF] =
    [.write 4 0x30 0x00112233#32, .write 4 0x34 0x44556677#32, .write 4 0x38 0x8899AABB#32,
     .write 4 0x3C 0xCCDDEEFF#32]

/-- R39: a write to a read-only register changes nothing, and writing KEYW or DINW twice is writing it once. -/
def Obligations.RegisterWritesHaveNoFurtherEffect : Prop :=
  (∀ (s : State) (requester : Nat) (rest : List Event) (off : Nat) (v : Word),
    s.pending = .access requester (.write 4 off v) :: rest → off % 4 = 0 →
    off = 0x04 ∨ off = 0x08 ∨ (0x40 ≤ off ∧ off ≤ 0x4C) → step s = .next { s with pending := rest }) ∧
  ∀ (s t : State) (requester : Nat) (rest : List Event) (off : Nat) (v : Word),
    s.pending = .access requester (.write 4 off v) :: .access requester (.write 4 off v) :: rest →
    off % 4 = 0 → 0x10 ≤ off → off ≤ 0x3C → step s = .next t → step t = .next { t with pending := rest }

/-- R15, R16, R39: no read tells anything of KEY or DIN. -/
def Obligations.KeyAndInputCannotBeReadBack : Prop :=
  ∀ (s : State) (key : KeyBuffer) (din : Block) (requester bytes off : Nat) (rest : List Event),
    s.pending = .access requester (.read bytes off) :: rest →
    (∃ r, step s = .refused r ∧ step { s with key := key, din := din } = .refused r) ∨
    ∃ answers, step s = .next { s with pending := rest, responses := answers } ∧
      step { s with key := key, din := din } =
        .next { s with key := key, din := din, pending := rest, responses := answers }

/-- R41: the step takes the first event of the order and no other; only a read adds an answer, and it adds one. With no
event the block waits unchanged (R30, R113; the idle step is the model's reading, log 17). -/
def Obligations.EventsTakeEffectInOrder : Prop :=
  (∀ s : State, s.pending = [] → step s = .next s) ∧
  ∀ (s t : State) (e : Event) (rest : List Event), s.pending = e :: rest → step s = .next t →
    t.pending = rest ∧
    (t.responses = s.responses ∨
      ∃ requester bytes off v, e = .access requester (.read bytes off) ∧ t.responses = s.responses ++ [⟨requester, v⟩])

/-- R110, R124, R126: requesters have no identity inside the block: a write has the same effect whoever issues it. -/
def Obligations.WritesIgnoreTheRequester : Prop :=
  ∀ (s : State) (requester requester' bytes off : Nat) (v : Word) (rest : List Event),
    step { s with pending := .access requester (.write bytes off v) :: rest } =
      step { s with pending := .access requester' (.write bytes off v) :: rest }

/-- R20: the layout of STATUS, for every state. -/
def Obligations.StatusWordLayout : Prop :=
  ∀ s : State, s.statusWord.extractLsb' 0 4 = s.err ∧ s.statusWord.getLsbD 4 = s.misuse ∧
    s.statusWord.extractLsb' 5 27 = 0

/-! ### Reset -/

/-- R28: the reset values of every element, for every NCTX. -/
def Obligations.ResetValues : Prop :=
  (∀ n : Nat,
    let s := State.resetWith n
    (∀ b ∈ s.key, b = 0x00#8) ∧ (∀ b ∈ s.din, b = 0x00#8) ∧ (∀ b ∈ s.dout, b = 0x00#8) ∧
    s.res = 0x00000000#32 ∧ s.err = 0 ∧ s.misuse = false ∧ s.ctx.length = n ∧
    ∀ slot ∈ s.ctx, slot.valid = false ∧ slot.nr = 0 ∧ ∀ w ∈ slot.rk, w = 0x00000000#32) ∧
  ∃ n, Config.legalNctx n ∧ State.reset = State.resetWith n

/-- R127: the reset event puts every element at its value of R28 and keeps NCTX; nothing else clears MISUSE, and nothing
but it and RELEASE frees a slot. -/
def Obligations.ResetEventClearsTheBlock : Prop :=
  (∀ (s : State) (rest : List Event), s.pending = .reset :: rest →
    ∃ t, step s = .next t ∧ t.pending = rest ∧
      t = { State.resetWith s.ctx.length with pending := t.pending, responses := t.responses }) ∧
  (∀ s t : State, step s = .next t → s.misuse = true → t.misuse = false → s.pending.head? = some .reset) ∧
  ∀ (s t : State) (h : Nat), step s = .next t → Live s h → ¬ Live t h →
    s.pending.head? = some .reset ∨
    ∃ requester c, s.pending.head? = some (.access requester (.write 4 0x00 c)) ∧ decode c = .ok (.release h)

/-! ### The helper units -/

/-- R62: GFMUL, its whole effect and its corner cases. -/
def Obligations.GfmulCommandWritesTheProduct : Prop :=
  (∀ (a b : Byte) (s : State),
    exec (.gfmul a b) s = .next { s with res := (gfmul a b).setWidth 32, err := 0 }) ∧
  (∀ a : Byte, gfmul a 0 = 0 ∧ gfmul 0 a = 0 ∧ gfmul a 1 = a) ∧
  gfmul 0x57 0x83 = 0xC1 ∧ gfmul 0x57 0x13 = 0xFE ∧ decode 0x00835707#32 = .ok (.gfmul 0x57 0x83)

/-- R65: SBOX, its whole effect. -/
def Obligations.SboxCommandWritesTheEntry : Prop :=
  ∀ (x : Byte) (s : State),
    exec (.sbox x) s = .next { s with res := (sboxAt x).setWidth 32, err := 0 } ∧
    sboxAt 0 = 0x63 ∧ sboxAt 0x53 = 0xED ∧ decode 0x00005305#32 = .ok (.sbox 0x53)

/-- R68: INVSBOX, its whole effect. -/
def Obligations.InvsboxCommandWritesTheEntry : Prop :=
  ∀ (x : Byte) (s : State),
    exec (.invsbox x) s = .next { s with res := (invSboxAt x).setWidth 32, err := 0 } ∧
    invSboxAt 0x63 = 0 ∧ invSboxAt 0 = 0x52 ∧ invSboxAt 0xED = 0x53 ∧ decode 0x0000ED06#32 = .ok (.invsbox 0xED)

/-- R60: `gfmul` is the sum of the `a · x^i` for the bits `i` of `b`, and it is the remainder of the carry-less product
on division by 0x11B (the quotient's degree is at most 6). -/
def Obligations.GfmulIsTheRemainderModulo11B : Prop :=
  ∀ a b : Byte,
    gfmul a b = (List.range 8).foldl (fun p i => if b.getLsbD i then p ^^^ xtime^[i] a else p) 0 ∧
    ∃ q : BitVec 7, clmul (a.setWidth 16) (b.setWidth 16) = clmul (q.setWidth 16) 0x011B#16 ^^^ (gfmul a b).setWidth 16

/-- R61 (an inference the spec marks as its own, "derived: from rule R60"): the field laws of `gfmul`. -/
def Obligations.GfmulFieldLaws : Prop :=
  (∀ a b : Byte, gfmul a b = gfmul b a) ∧
  (∀ a b c : Byte, gfmul a (gfmul b c) = gfmul (gfmul a b) c) ∧
  (∀ a b c : Byte, gfmul a (b ^^^ c) = gfmul a b ^^^ gfmul a c) ∧
  (∀ a : Byte, gfmul a 0x00 = 0x00 ∧ gfmul a 0x01 = a ∧ gfmul a 0x02 = xtime a ∧ gfmul a 0x03 = xtime a ^^^ a) ∧
  (∀ a b : Byte, gfmul a b = 0x00 → a = 0x00 ∨ b = 0x00) ∧
  ∀ a : Byte, a ≠ 0x00 → ∃ b, gfmul a b = 0x01 ∧ ∀ c, gfmul a c = 0x01 → c = b

/-- R64: every entry of the listing is the closed form: the inverse in the field, then the affine map. -/
def Obligations.SboxIsTheClosedForm : Prop :=
  ∀ x : Byte, ∃ b : Byte, (x = 0 → b = 0) ∧ (x ≠ 0 → gfmul x b = 1) ∧
    (∀ c : Byte, x ≠ 0 → gfmul x c = 1 → c = b) ∧ sboxAt x = sboxAffine b

/-- R63, R67: SBOX is a permutation without fixed point and without opposite fixed point, and INVSBOX is its inverse. -/
def Obligations.InvsboxInvertsSbox : Prop :=
  (∀ x : Byte, invSboxAt (sboxAt x) = x ∧ sboxAt (invSboxAt x) = x) ∧
  (∀ y : Byte, ∃ x, sboxAt x = y ∧ ∀ x', sboxAt x' = y → x' = x) ∧
  ∀ x : Byte, sboxAt x ≠ x ∧ sboxAt x ≠ x ^^^ 0xFF#8

/-- R69: the law of formation of the round constants and their place in a word. -/
def Obligations.RoundConstantsArePowersOfX : Prop :=
  rconAt 1 = 0x01 ∧ (∀ i, 1 ≤ i → i < 10 → rconAt (i + 1) = xtime (rconAt i)) ∧
  ∀ i, wordByte (rconWord i) 0 = rconAt i ∧ ∀ k, 1 ≤ k → k < 4 → wordByte (rconWord i) k = 0

/-! ### Key expansion -/

/-- R70, R75, R76: the bytes of RotWord and SubWord, the length of the schedule and every one of its words. -/
def Obligations.KeyExpansionRecurrence : Prop :=
  (∀ w : Word, wordByte (rotWord w) 0 = wordByte w 1 ∧ wordByte (rotWord w) 1 = wordByte w 2 ∧
    wordByte (rotWord w) 2 = wordByte w 3 ∧ wordByte (rotWord w) 3 = wordByte w 0 ∧
    ∀ k, k < 4 → wordByte (subWord w) k = sboxAt (wordByte w k)) ∧
  ∀ key : List Byte, validKeyLength key.length →
    let nk := key.length / 4
    let nr := nk + 6
    let w := keyExpansion key
    w.length = 4 * (nr + 1) ∧
    (key.length = 16 → w.length = 44) ∧ (key.length = 24 → w.length = 52) ∧ (key.length = 32 → w.length = 60) ∧
    (∀ i, i < nk → ∀ k, k < 4 → ∃ v, w[i]? = some v ∧ some (wordByte v k) = key[4 * i + k]?) ∧
    ∀ i, nk ≤ i → i < 4 * (nr + 1) → ∃ prev back v, w[i - 1]? = some prev ∧ w[i - nk]? = some back ∧ w[i]? = some v ∧
      (i % nk = 0 → v = back ^^^ (subWord (rotWord prev) ^^^ rconWord (i / nk))) ∧
      (i % nk ≠ 0 → nk = 8 → i % nk = 4 → v = back ^^^ subWord prev) ∧
      (i % nk ≠ 0 → ¬ (nk = 8 ∧ i % nk = 4) → v = back ^^^ prev)

/-- R80: KEYEXP, its two errors and its success, each with its whole effect, and the words of the rule's example. -/
def Obligations.KeyexpCommand : Prop :=
  ∀ (klen : Nat) (s : State),
    (klen ≠ 16 → klen ≠ 24 → klen ≠ 32 → exec (.keyexp klen) s = .next { s with err := 1 }) ∧
    (validKeyLength klen → Full s → exec (.keyexp klen) s = .next { s with err := 4 }) ∧
    (keyExpansion (List.replicate 16 0)).take 8 = List.replicate 4 0x00000000#32 ++ List.replicate 4 0x62636363#32 ∧
    (keyExpansion (List.replicate 16 0)).drop 40 = [0xB4EF5BCB#32, 0x3E92E211#32, 0x23E951CF#32, 0x6F8F188E#32] ∧
    ∀ h, validKeyLength klen → LowestFree s h →
      let w := keyExpansion (s.key.toList.take klen)
      let nr := klen / 4 + 6
      w.length = 4 * (nr + 1) ∧
      exec (.keyexp klen) s =
        .next { s with
          ctx := s.ctx.set h
            { valid := true, nr := BitVec.ofNat 4 nr,
              rk := Vector.ofFn fun j : Fin 60 => if j.val < 4 * (nr + 1) then w.getD j.val 0 else 0 }
          res := (BitVec.ofNat 8 h).setWidth 32
          err := 0 }

/-- R78, R81: two KEYEXP of the same length in a row, no write between, make two slots with different handles and the
same content, and leave KEY as it is. -/
def Obligations.SameKeyGivesSameContext : Prop :=
  ∀ (klen : Nat) (s t u : State) (h h' : Nat), validKeyLength klen → LowestFree s h →
    exec (.keyexp klen) s = .next t → LowestFree t h' → exec (.keyexp klen) t = .next u →
    h ≠ h' ∧ u.key = s.key ∧ ∃ slot, slot.valid = true ∧ u.ctx[h]? = some slot ∧ u.ctx[h']? = some slot

/-! ### Block transforms -/

/-- R86 to R89: the steps of a forward round, byte by byte. -/
def Obligations.ForwardStepsByteByByte : Prop :=
  ∀ s : Block,
    (∀ (rk : Nat → Word) (r i : Nat), i < 16 →
      (addRoundKey s rk r)[i]? = s[i]?.map (· ^^^ wordByte (rk (4 * r + i / 4)) (i % 4))) ∧
    (∀ i : Nat, (subBytes s)[i]? = s[i]?.map sboxAt) ∧
    (∀ r c : Nat, r < 4 → c < 4 → (shiftRows s)[r + 4 * c]? = s[r + 4 * ((c + r) % 4)]?) ∧
    ∀ (c : Nat) (a0 a1 a2 a3 : Byte), c < 4 →
      s[4 * c]? = some a0 → s[4 * c + 1]? = some a1 → s[4 * c + 2]? = some a2 → s[4 * c + 3]? = some a3 →
      (mixColumns s)[4 * c]? = some (gfmul 0x02 a0 ^^^ gfmul 0x03 a1 ^^^ a2 ^^^ a3) ∧
      (mixColumns s)[4 * c + 1]? = some (a0 ^^^ gfmul 0x02 a1 ^^^ gfmul 0x03 a2 ^^^ a3) ∧
      (mixColumns s)[4 * c + 2]? = some (a0 ^^^ a1 ^^^ gfmul 0x02 a2 ^^^ gfmul 0x03 a3) ∧
      (mixColumns s)[4 * c + 3]? = some (gfmul 0x03 a0 ^^^ a1 ^^^ a2 ^^^ gfmul 0x02 a3)

/-- R95 to R97: the steps of an inverse round, byte by byte, each undoing its partner. -/
def Obligations.InverseStepsUndoForwardSteps : Prop :=
  ∀ s : Block,
    (∀ i : Nat, (invSubBytes s)[i]? = s[i]?.map invSboxAt) ∧
    (∀ r c : Nat, r < 4 → c < 4 → (invShiftRows s)[r + 4 * c]? = s[r + 4 * ((c + 4 - r) % 4)]?) ∧
    (∀ (c : Nat) (a0 a1 a2 a3 : Byte), c < 4 →
      s[4 * c]? = some a0 → s[4 * c + 1]? = some a1 → s[4 * c + 2]? = some a2 → s[4 * c + 3]? = some a3 →
      (invMixColumns s)[4 * c]? =
        some (gfmul 0x0E a0 ^^^ gfmul 0x0B a1 ^^^ gfmul 0x0D a2 ^^^ gfmul 0x09 a3) ∧
      (invMixColumns s)[4 * c + 1]? =
        some (gfmul 0x09 a0 ^^^ gfmul 0x0E a1 ^^^ gfmul 0x0B a2 ^^^ gfmul 0x0D a3) ∧
      (invMixColumns s)[4 * c + 2]? =
        some (gfmul 0x0D a0 ^^^ gfmul 0x09 a1 ^^^ gfmul 0x0E a2 ^^^ gfmul 0x0B a3) ∧
      (invMixColumns s)[4 * c + 3]? =
        some (gfmul 0x0B a0 ^^^ gfmul 0x0D a1 ^^^ gfmul 0x09 a2 ^^^ gfmul 0x0E a3)) ∧
    invSubBytes (subBytes s) = s ∧ invShiftRows (shiftRows s) = s ∧ invMixColumns (mixColumns s) = s ∧
    ∀ (rk : Nat → Word) (r : Nat), addRoundKey (addRoundKey s rk r) rk r = s

/-- R90 to R93: the forward transformation as the sequence of its states; round keys 0, 1, ..., Nr. -/
def Obligations.CipherIsTheSequenceOfRounds : Prop :=
  ∀ (b : Block) (rk : Nat → Word) (nr : Nat), 1 ≤ nr →
    ∃ st : Nat → Block, st 0 = addRoundKey b rk 0 ∧
      (∀ r, 1 ≤ r → r < nr → st r = addRoundKey (mixColumns (shiftRows (subBytes (st (r - 1))))) rk r) ∧
      st nr = addRoundKey (shiftRows (subBytes (st (nr - 1)))) rk nr ∧ cipher b rk nr = st nr

/-- R99: the inverse transformation as the sequence of its states; round keys Nr, Nr-1, ..., 0. -/
def Obligations.InvCipherIsTheSequenceOfRounds : Prop :=
  ∀ (b : Block) (rk : Nat → Word) (nr : Nat), 1 ≤ nr →
    ∃ st : Nat → Block, st nr = addRoundKey b rk nr ∧
      (∀ r, 1 ≤ r → r < nr → st r = invMixColumns (addRoundKey (invSubBytes (invShiftRows (st (r + 1)))) rk r)) ∧
      st 0 = addRoundKey (invSubBytes (invShiftRows (st 1))) rk 0 ∧ invCipher b rk nr = st 0

/-- R94: ENC, its error and its success, each with its whole effect, and the rule's example: the zero block under the
zero key of 16 bytes. -/
def Obligations.EncCommand : Prop :=
  cipher (Vector.replicate 16 0) zeroKeySchedule 10 = exampleOutput ∧
  ∀ (h : Nat) (s : State),
    (s.ctx.length ≤ h ∨ (∃ slot, s.ctx[h]? = some slot ∧ slot.valid = false) →
      exec (.enc h) s = .next { s with err := 3, misuse := true }) ∧
    ∀ slot, s.ctx[h]? = some slot → slot.valid = true →
      exec (.enc h) s =
        .next { s with dout := cipher s.din (fun j => slot.rk[j]?.getD 0) slot.nr.toNat, err := 0 }

/-- R100: DEC, its error and its success, each with its whole effect, and the rule's two examples. -/
def Obligations.DecCommand : Prop :=
  invCipher exampleOutput zeroKeySchedule 10 = Vector.replicate 16 0 ∧
  invCipher (Vector.replicate 16 0) zeroKeySchedule 10 =
    #v[0x14, 0x0F, 0x0F, 0x10, 0x11, 0xB5, 0x22, 0x3D, 0x79, 0x58, 0x77, 0x17, 0xFF, 0xD9, 0xEC, 0x3A] ∧
  ∀ (h : Nat) (s : State),
    (s.ctx.length ≤ h ∨ (∃ slot, s.ctx[h]? = some slot ∧ slot.valid = false) →
      exec (.dec h) s = .next { s with err := 3, misuse := true }) ∧
    ∀ slot, s.ctx[h]? = some slot → slot.valid = true →
      exec (.dec h) s =
        .next { s with dout := invCipher s.din (fun j => slot.rk[j]?.getD 0) slot.nr.toNat, err := 0 }

/-- R101: for every schedule and round count (those of KeyExpansion among them) each transformation undoes the other on
every block; and in commands, ENC under one slot, DOUT copied to DIN, DEC under a slot of the same content gives the
block back. -/
def Obligations.DecryptUndoesEncrypt : Prop :=
  (∀ (rk : Nat → Word) (nr : Nat) (b : Block),
    invCipher (cipher b rk nr) rk nr = b ∧ cipher (invCipher b rk nr) rk nr = b) ∧
  ∀ (s : State) (h h' : Nat) (slot : Slot),
    s.ctx[h]? = some slot → s.ctx[h']? = some slot → slot.valid = true →
    ∃ t u, exec (.enc h) s = .next t ∧ exec (.dec h') { t with din := t.dout } = .next u ∧ u.dout = s.din ∧ u.err = 0

/-- R98: InvShiftRows and InvSubBytes commute, and the mirrored arrangement with transformed round keys computes the
same function. -/
def Obligations.MirroredInverseCipherIsTheSame : Prop :=
  (∀ s : Block, invShiftRows (invSubBytes s) = invSubBytes (invShiftRows s)) ∧
  ∀ (b : Block) (rk : Nat → Word) (nr : Nat), 1 ≤ nr → mirroredInvCipher b rk nr = invCipher b rk nr

/-- R102: ENC and DEC on a live handle end with ERR = 0 and DOUT the whole transformed block, whatever DIN holds, and on
no handle with another error than InvalidContext. -/
def Obligations.TransformsAreTotalOnLiveHandles : Prop :=
  ∀ (s : State) (h : Nat),
    (∀ slot, s.ctx[h]? = some slot → slot.valid = true → ∀ din : Block,
      (∃ t, exec (.enc h) { s with din := din } = .next t ∧ t.err = 0 ∧
        t.dout = cipher din (fun j => slot.rk[j]?.getD 0) slot.nr.toNat) ∧
      ∃ t, exec (.dec h) { s with din := din } = .next t ∧ t.err = 0 ∧
        t.dout = invCipher din (fun j => slot.rk[j]?.getD 0) slot.nr.toNat) ∧
    ∀ i : Instr, i = .enc h ∨ i = .dec h → ∃ t, exec i s = .next t ∧ (t.err = 0 ∨ t.err = 3)

/-- R103: DOUT after ENC or DEC is a function of DIN and the slot alone. -/
def Obligations.TransformsDependOnInputAndSlotOnly : Prop :=
  ∀ (s s' : State) (h h' : Nat) (slot : Slot), slot.valid = true →
    s.ctx[h]? = some slot → s'.ctx[h']? = some slot → s.din = s'.din →
    (∃ t t', exec (.enc h) s = .next t ∧ exec (.enc h') s' = .next t' ∧ t.dout = t'.dout) ∧
    ∃ t t', exec (.dec h) s = .next t ∧ exec (.dec h') s' = .next t' ∧ t.dout = t'.dout

/-- R30: however many ENC, DEC, SBOX, INVSBOX or GFMUL commands run in between, two ENC (or two DEC) on the same live
slot with the same DIN give the same DOUT. -/
def Obligations.RepeatedTransformsAgree : Prop :=
  ∀ (between : List Instr) (s : State) (h : Nat),
    (∀ i ∈ between, i.mnemonic ≠ "KEYEXP" ∧ i.mnemonic ≠ "RELEASE") → Live s h →
    ∃ t, runCommands between s = .next t ∧
      (∃ u v, exec (.enc h) s = .next u ∧ exec (.enc h) t = .next v ∧ u.dout = v.dout) ∧
      ∃ u v, exec (.dec h) s = .next u ∧ exec (.dec h) t = .next v ∧ u.dout = v.dout

/-! ### Context lifecycle -/

/-- R106: RELEASE, its error and its success, each with its whole effect, and the rule's example. -/
def Obligations.ReleaseCommand : Prop :=
  ∀ (h : Nat) (s : State),
    (s.ctx.length ≤ h ∨ (∃ slot, s.ctx[h]? = some slot ∧ slot.valid = false) →
      exec (.release h) s = .next { s with err := 3, misuse := true }) ∧
    (∀ slot, s.ctx[h]? = some slot → slot.valid = true →
      exec (.release h) s =
        .next { s with ctx := s.ctx.set h { valid := false, nr := 0, rk := Vector.replicate 60 0 }, err := 0 }) ∧
    (decode 0x00000004#32 = .ok (.release 0) ∧ (Live s 0 → Live s 1 →
      ∃ t u, exec (.release 0) s = .next t ∧ ¬ Live t 0 ∧ Live t 1 ∧ t.err = 0 ∧
        exec (.keyexp 16) t = .next u ∧ u.err = 0 ∧ u.res = 0x00000000#32))

/-- R107, R108: after a RELEASE that succeeded, RELEASE, ENC and DEC on the same handle end with InvalidContext and
MISUSE = 1 and change nothing else. -/
def Obligations.UseAfterReleaseIsMisuse : Prop :=
  ∀ (s t : State) (h : Nat), exec (.release h) s = .next t → t.err = 0 →
    exec (.release h) t = .next { t with err := 3, misuse := true } ∧
    exec (.enc h) t = .next { t with err := 3, misuse := true } ∧
    exec (.dec h) t = .next { t with err := 3, misuse := true }

/-- R109, R133: a released handle whose slot is the lowest free one comes back at the next KEYEXP with a good length,
and ENC through it succeeds without a mark. -/
def Obligations.ReleasedHandleComesBack : Prop :=
  ∀ (s : State) (h klen : Nat), (∀ j, j ≤ h → Live s j) → validKeyLength klen →
    ∃ t u v, exec (.release h) s = .next t ∧ exec (.keyexp klen) t = .next u ∧ u.err = 0 ∧
      u.res = (BitVec.ofNat 8 h).setWidth 32 ∧ exec (.enc h) u = .next v ∧ v.err = 0 ∧ v.misuse = s.misuse

/-- R111 (an inference the spec marks as its own; "it needs the free slot's nr and rk to have been zero"): KEYEXP and
then RELEASE of the handle it gave leave the context table, KEY, DIN, DOUT and MISUSE exactly as they were. -/
def Obligations.CreateAndDestroyRestoreTheTable : Prop :=
  ∀ (s : State) (klen h : Nat), s.Inv → validKeyLength klen → LowestFree s h →
    ∃ t u, exec (.keyexp klen) s = .next t ∧ t.res.toNat = h ∧ exec (.release h) t = .next u ∧
      u = { s with res := t.res, err := 0 }

/-- R105: in one step a slot goes from free to live exactly by KEYEXP with a good length, it being the lowest free slot,
and from live to free exactly by RELEASE of it or by reset. -/
def Obligations.SlotLifecycle : Prop :=
  ∀ (s t : State) (h : Nat), step s = .next t → h < s.ctx.length →
    h < t.ctx.length ∧
    (¬ Live s h ∧ Live t h ↔
      ∃ requester c klen, s.pending.head? = some (.access requester (.write 4 0x00 c)) ∧
        decode c = .ok (.keyexp klen) ∧ validKeyLength klen ∧ LowestFree s h) ∧
    (Live s h ∧ ¬ Live t h ↔
      Live s h ∧ (s.pending.head? = some .reset ∨
        ∃ requester c, s.pending.head? = some (.access requester (.write 4 0x00 c)) ∧ decode c = .ok (.release h)))

/-- R23: every command but RELEASE of it leaves a live slot, its round count and its schedule, exactly as it is; and
RELEASE of it, its destruction, leaves the free slot. -/
def Obligations.LiveSlotsAreImmutable : Prop :=
  ∀ (i : Instr) (s t : State) (h : Nat) (slot : Slot), exec i s = .next t →
    s.ctx[h]? = some slot → slot.valid = true →
    (i ≠ .release h → t.ctx[h]? = some slot) ∧ (i = .release h → t.ctx[h]? = some Slot.free)

/-- R24: what is in the slots (beside the valid bits) shows in nothing but the DOUT of ENC and DEC: two states that
differ only there step alike, up to the slots' content, and up to DOUT where the event is an ENC or a DEC. -/
def Obligations.SlotContentIsHidden : Prop :=
  ∀ s s' : State, covered s = covered s' →
    (∃ r, step s = .refused r ∧ step s' = .refused r) ∨
    ∃ t t', step s = .next t ∧ step s' = .next t' ∧
      covered { t with dout := t'.dout } = covered t' ∧
      (t.dout = t'.dout ∨
        ∃ requester c h, s.pending.head? = some (.access requester (.write 4 0x00 c)) ∧
          (decode c = .ok (.enc h) ∨ decode c = .ok (.dec h)))

/-! ### Errors, frames, invariants -/

/-- R112: the code that each command word leaves in ERR, and when; with the order of checks (R119), and MISUSE set by
code 3 alone (R20). -/
def Obligations.ErrorCodesAndTheirCauses : Prop :=
  ∀ (s : State) (requester : Nat) (c : Word) (rest : List Event),
    s.pending = .access requester (.write 4 0x00 c) :: rest →
    ∃ t, step s = .next t ∧
      (t.err = 1 ↔ ∃ klen, decode c = .ok (.keyexp klen) ∧ ¬ validKeyLength klen) ∧
      t.err ≠ 2 ∧
      (t.err = 3 ↔ ∃ h, (decode c = .ok (.enc h) ∨ decode c = .ok (.dec h) ∨ decode c = .ok (.release h)) ∧ ¬ Live s h) ∧
      (t.err = 4 ↔ ∃ klen, decode c = .ok (.keyexp klen) ∧ validKeyLength klen ∧ Full s) ∧
      (t.err = 5 ↔ IsIllegal c) ∧
      t.err.toNat ≤ 5 ∧
      (t.misuse = true ↔ s.misuse = true ∨ t.err = 3)

/-- R113, R82, last row of R29: a command that ends with an error has changed nothing but STATUS. -/
def Obligations.FailedCommandsChangeOnlyStatus : Prop :=
  ∀ (i : Instr) (s t : State), exec i s = .next t → t.err ≠ 0 → t = { s with err := t.err, misuse := t.misuse }

/-- R29 (an inference the spec marks as its own): which command touches what; every command ends in a next state. -/
def Obligations.CommandFrames : Prop :=
  ∀ (i : Instr) (s : State), ∃ t, exec i s = .next t ∧
    t.key = s.key ∧ t.din = s.din ∧ t.pending = s.pending ∧ t.responses = s.responses ∧
    t.ctx.length = s.ctx.length ∧
    (i.mnemonic ≠ "ENC" → i.mnemonic ≠ "DEC" → t.dout = s.dout) ∧
    (i.mnemonic = "ENC" ∨ i.mnemonic = "DEC" ∨ i.mnemonic = "RELEASE" → t.res = s.res) ∧
    (i.mnemonic ≠ "KEYEXP" → i.mnemonic ≠ "RELEASE" → t.ctx = s.ctx) ∧
    (i.mnemonic ≠ "ENC" → i.mnemonic ≠ "DEC" → i.mnemonic ≠ "RELEASE" → t.misuse = s.misuse) ∧
    (∀ klen, i = .keyexp klen →
      (¬ validKeyLength klen ∨ Full s → t.ctx = s.ctx ∧ t.res = s.res) ∧
      ∀ h, LowestFree s h → ∀ j, j ≠ h → t.ctx[j]? = s.ctx[j]?) ∧
    ∀ h, i = .release h → (¬ Live s h → t.ctx = s.ctx) ∧ ∀ j, j ≠ h → t.ctx[j]? = s.ctx[j]?

/-- The invariant (R6, R18, R20, R22, R106, R113) holds after reset, for every NCTX in 1..256. -/
def Obligations.ResetMeetsTheInvariant : Prop :=
  (∀ n, Config.legalNctx n → (State.resetWith n).Inv) ∧ State.reset.Inv

/-- Every step keeps the invariant, in particular R22 (an inference the spec marks as its own): a live slot always
holds the whole schedule of a key of 16, 24 or 32 bytes, with its round count. -/
def Obligations.StepKeepsTheInvariant : Prop :=
  ∀ s t : State, s.Inv → step s = .next t → t.Inv

/-- R131 (duties 4, 5 and 9), R109: a step on an event that uses only a handle its requester holds keeps the invariant,
MISUSE = 0, and that every held handle is live, the holdings being those after the event. What counts as holding is the
model's (log 7). -/
def Obligations.DisciplinedStepsKeepHeldHandlesLive : Prop :=
  ∀ (held : List Holding) (s t : State) (e : Event) (rest : List Event),
    s.pending = e :: rest → s.Inv → (∀ p ∈ held, Live s p.2) → s.misuse = false →
    usesHeld held e = true → step s = .next t →
    t.Inv ∧ (∀ p ∈ heldAfter held e t, Live t p.2) ∧ t.misuse = false

/-- R131 (duties 4, 5 and 9), R109, R138: requesters that use only handles they hold never bring about MISUSE. What
counts as holding is the model's (log 7). -/
def Obligations.DisciplinedRunsAreClean : Prop :=
  ∀ (n : Nat) (held : List Holding) (s : State), s.Inv → (∀ p ∈ held, Live s p.2) → s.misuse = false →
    disciplined n held s = true → cleanRun n s = true

/-! ### The source's calls -/

/-- R55, R130: ENCRYPT and DECRYPT on a live handle, made without another requester's access in between, answer
STATUS without error and then the transformed block. -/
def Obligations.TransformCallsAnswerTheBlock : Prop :=
  ∀ (s : State) (requester h : Nat) (b : Block) (rest : List Event) (slot : Slot),
    h ≤ 255 → s.ctx[h]? = some slot → slot.valid = true →
    (s.pending = (Call.encrypt h b).events requester ++ rest →
      Sys2Proof.core.run 10 s = .next { s with
        din := b, dout := slot.encrypt b, err := 0, pending := rest
        responses := s.responses ++ ⟨requester, okStatus s.misuse⟩ :: blockResponses requester (slot.encrypt b) }) ∧
    (s.pending = (Call.decrypt h b).events requester ++ rest →
      Sys2Proof.core.run 10 s = .next { s with
        din := b, dout := slot.decrypt b, err := 0, pending := rest
        responses := s.responses ++ ⟨requester, okStatus s.misuse⟩ :: blockResponses requester (slot.decrypt b) })

/-- R55, R130: CREATE with a key of 16, 24 or 32 bytes and a free slot answers STATUS without error and the handle, and
the slot holds the key's context; then DESTROY of a live handle frees its slot and answers STATUS without error. -/
def Obligations.LifecycleCallsAnswerTheHandle : Prop :=
  (∀ (s : State) (requester h : Nat) (key : List Byte) (rest : List Event),
    validKeyLength key.length → LowestFree s h →
    s.pending = (Call.create key).events requester ++ rest →
    ∃ t, Sys2Proof.core.run (key.length / 4 + 3) s = .next t ∧
      t.key.toList.take key.length = key ∧ t.key.toList.drop key.length = s.key.toList.drop key.length ∧
      t = { s with
        key := t.key, ctx := s.ctx.set h (newContext key), res := (BitVec.ofNat 8 h).setWidth 32, err := 0
        pending := rest
        responses := s.responses ++ [⟨requester, okStatus s.misuse⟩, ⟨requester, (BitVec.ofNat 8 h).setWidth 32⟩] }) ∧
  ∀ (s : State) (requester h : Nat) (rest : List Event), h ≤ 255 → Live s h →
    s.pending = (Call.destroy h).events requester ++ rest →
    Sys2Proof.core.run 2 s = .next { s with
      ctx := s.ctx.set h Slot.free, err := 0, pending := rest
      responses := s.responses ++ [⟨requester, okStatus s.misuse⟩] }
end

