-- ==== Sys2Proof/Laws/Field.lean ====
section
/-! SUPPORT. The product in GF(2^8): a sum of eight terms, additive in each argument (R60, R61). -/

namespace Sys2Proof.Machine

/-- `x` where the bit is set, else 0. -/
def gate (bit : Bool) (x : Byte) : Byte := if bit then x else 0

theorem gate_xor (bit bit' : Bool) (x : Byte) : gate (bit ^^ bit') x = gate bit x ^^^ gate bit' x := by
  cases bit <;> cases bit' <;> simp [gate]

theorem gate_add (bit : Bool) (x y : Byte) : gate bit (x ^^^ y) = gate bit x ^^^ gate bit y := by
  cases bit <;> simp [gate]

theorem ite_xor_eq_gate (bit : Bool) (p x : Byte) : (if bit then p ^^^ x else p) = p ^^^ gate bit x := by
  cases bit <;> simp [gate]

theorem xtime_add (x y : Byte) : xtime (x ^^^ y) = xtime x ^^^ xtime y := by
  unfold xtime
  rw [BitVec.getLsbD_xor, BitVec.shiftLeft_xor_distrib]
  cases x.getLsbD 7 <;> cases y.getLsbD 7 <;> simp
  · ac_rfl
  · ac_rfl
  · rw [show ∀ u v w : Byte, u ^^^ w ^^^ (v ^^^ w) = u ^^^ v ^^^ (w ^^^ w) by intros; ac_rfl]
    simp

/-- R60's loop written out: `a · x^i` for each set bit `i` of `b`, summed. -/
theorem gfmul_eq_sum (a b : Byte) :
    gfmul a b = gate (b.getLsbD 0) a ^^^ gate (b.getLsbD 1) (xtime a) ^^^ gate (b.getLsbD 2) (xtime^[2] a) ^^^
      gate (b.getLsbD 3) (xtime^[3] a) ^^^ gate (b.getLsbD 4) (xtime^[4] a) ^^^ gate (b.getLsbD 5) (xtime^[5] a) ^^^
      gate (b.getLsbD 6) (xtime^[6] a) ^^^ gate (b.getLsbD 7) (xtime^[7] a) := by
  have h : List.range 8 = [0, 1, 2, 3, 4, 5, 6, 7] := rfl
  simp only [gfmul, h, List.foldl, gfmulTurn, ite_xor_eq_gate, BitVec.zero_xor]
  rfl

theorem gfmul_add_right (a b c : Byte) : gfmul a (b ^^^ c) = gfmul a b ^^^ gfmul a c := by
  simp only [gfmul_eq_sum, BitVec.getLsbD_xor, gate_xor]
  ac_rfl

theorem gfmul_add_left (a b c : Byte) : gfmul (a ^^^ b) c = gfmul a c ^^^ gfmul b c := by
  simp only [gfmul_eq_sum, Function.iterate_succ, Function.iterate_zero, Function.comp, id, xtime_add, gate_add]
  ac_rfl

theorem gfmul_one : ∀ a : Byte, gfmul a 0x01#8 = a := by decide +kernel

theorem one_gfmul : ∀ a : Byte, gfmul 0x01#8 a = a := by decide +kernel

end Sys2Proof.Machine
end

