-- ==== Sys2Proof/Laws/Block.lean ====
section
/-! SUPPORT. A block as a matrix (R11): reading what was built, equality by rows and columns, and the small lemmas of
each step of a round. -/

namespace Sys2Proof.Machine

@[simp] theorem stateByte_blockOf (f : Nat → Nat → Byte) (r c : Nat) :
    stateByte (blockOf f) r c = f (r % 4) (c % 4) := by
  have h1 : (r % 4 + 4 * (c % 4)) % 4 = r % 4 := by omega
  have h2 : (r % 4 + 4 * (c % 4)) / 4 = c % 4 := by omega
  simp [stateByte, blockOf, h1, h2]

/-- Row and column numbers count modulo 4. -/
theorem stateByte_mod (s : Block) (r c : Nat) : stateByte s (r % 4) (c % 4) = stateByte s r c := by
  simp [stateByte]

/-- Byte `i` of a block is in row `i % 4`, column `i / 4`. -/
theorem getElem_eq_stateByte (s : Block) (i : Nat) (h : i < 16) : s[i] = stateByte s (i % 4) (i / 4) := by
  have : i % 4 % 4 + 4 * (i / 4 % 4) = i := by omega
  simp only [stateByte, this]

/-- Two blocks with the same matrix are equal. -/
theorem block_ext {s t : Block} (h : ∀ r c, r < 4 → c < 4 → stateByte s r c = stateByte t r c) : s = t := by
  apply Vector.ext
  intro i hi
  rw [getElem_eq_stateByte s i hi, getElem_eq_stateByte t i hi]
  exact h _ _ (by omega) (by omega)

theorem stateByte_map (f : Byte → Byte) (s : Block) (r c : Nat) :
    stateByte (s.map f) r c = f (stateByte s r c) := by simp [stateByte]

theorem stateByte_addRoundKey (s : Block) (rk : Nat → Word) (k r c : Nat) (hr : r < 4) (hc : c < 4) :
    stateByte (addRoundKey s rk k) r c = stateByte s r c ^^^ wordByte (rk (4 * k + c)) r := by
  simp [addRoundKey, Nat.mod_eq_of_lt hr, Nat.mod_eq_of_lt hc]

theorem stateByte_subBytes (s : Block) (r c : Nat) : stateByte (subBytes s) r c = sboxAt (stateByte s r c) :=
  stateByte_map _ _ _ _

theorem stateByte_invSubBytes (s : Block) (r c : Nat) :
    stateByte (invSubBytes s) r c = invSboxAt (stateByte s r c) := stateByte_map _ _ _ _

theorem stateByte_shiftRows (s : Block) (r c : Nat) : stateByte (shiftRows s) r c = stateByte s r (c + r) := by
  simp only [shiftRows, stateByte_blockOf]
  rw [← stateByte_mod s (r % 4), ← stateByte_mod s r]
  congr 1 <;> omega

theorem stateByte_invShiftRows (s : Block) (r c : Nat) (hr : r < 4) :
    stateByte (invShiftRows s) r c = stateByte s r (c + 4 - r) := by
  simp only [invShiftRows, stateByte_blockOf]
  rw [← stateByte_mod s (r % 4), ← stateByte_mod s r]
  congr 1 <;> omega

theorem stateByte_mulColumns (m0 m1 m2 m3 : Byte) (s : Block) (r c : Nat) :
    stateByte (mulColumns m0 m1 m2 m3 s) r c =
      gfmul m0 (stateByte s r c) ^^^ gfmul m1 (stateByte s (r + 1) c) ^^^
        gfmul m2 (stateByte s (r + 2) c) ^^^ gfmul m3 (stateByte s (r + 3) c) := by
  have h : ∀ k, stateByte s (r % 4 + k) (c % 4) = stateByte s (r + k) c := by
    intro k
    rw [← stateByte_mod s (r % 4 + k), ← stateByte_mod s (r + k)]
    congr 1 <;> omega
  have h0 := h 0
  simp only [Nat.add_zero] at h0
  simp only [mulColumns, stateByte_blockOf, h, h0]

end Sys2Proof.Machine
end

