-- ==== Sys2Proof/Laws/Decode.lean ====
section
/-! SUPPORT. The fields of a word as numbers, and what the decoder can answer (R46, R49). -/

namespace Sys2Proof

theorem fieldOP_toNat (c : Word) : (fieldOP c).toNat = c.toNat % 16 := by simp [fieldOP]
theorem fieldZ0_toNat (c : Word) : (fieldZ0 c).toNat = c.toNat / 2 ^ 4 % 16 := by
  simp [fieldZ0, Nat.shiftRight_eq_div_pow]
theorem fieldA_toNat (c : Word) : (fieldA c).toNat = c.toNat / 2 ^ 8 % 256 := by
  simp [fieldA, Nat.shiftRight_eq_div_pow]
theorem fieldB_toNat (c : Word) : (fieldB c).toNat = c.toNat / 2 ^ 16 % 256 := by
  simp [fieldB, Nat.shiftRight_eq_div_pow]
theorem fieldZ1_toNat (c : Word) : (fieldZ1 c).toNat = c.toNat / 2 ^ 24 % 256 := by
  simp [fieldZ1, Nat.shiftRight_eq_div_pow]

/-- The number of a command word whose operands fit their fields (R46). -/
theorem commandWord_toNat (op a b : Nat) (ho : op < 16) (ha : a ≤ 255) (hb : b ≤ 255) :
    (commandWord op a b).toNat = op + a * 2 ^ 8 + b * 2 ^ 16 := by
  simp only [commandWord, BitVec.toNat_ofNat, Nat.shiftLeft_eq]
  omega

/-- A word that decodes to a command has its reserved fields 0 and that command's opcode and operands. -/
theorem decode_eq_ok {c : Word} {i : Instr} (h : decode c = .ok i) :
    (fieldZ0 c).toNat = 0 ∧ (fieldZ1 c).toNat = 0 ∧
      (((fieldOP c).toNat = 7 ∧ i = .gfmul (fieldA c) (fieldB c)) ∨
       ((fieldB c).toNat = 0 ∧
        (((fieldOP c).toNat = 1 ∧ i = .keyexp (fieldA c).toNat) ∨ ((fieldOP c).toNat = 2 ∧ i = .enc (fieldA c).toNat) ∨
         ((fieldOP c).toNat = 3 ∧ i = .dec (fieldA c).toNat) ∨ ((fieldOP c).toNat = 4 ∧ i = .release (fieldA c).toNat) ∨
         ((fieldOP c).toNat = 5 ∧ i = .sbox (fieldA c)) ∨ ((fieldOP c).toNat = 6 ∧ i = .invsbox (fieldA c))))) := by
  have z0 : (fieldZ0 c).toNat = 0 ↔ fieldZ0 c = 0 := by simp [← BitVec.toNat_inj]
  have z1 : (fieldZ1 c).toNat = 0 ↔ fieldZ1 c = 0 := by simp [← BitVec.toNat_inj]
  have zb : (fieldB c).toNat = 0 ↔ fieldB c = 0 := by simp [← BitVec.toNat_inj]
  rw [z0, z1, zb]
  unfold decode at h
  split at h
  · cases h
  · split at h
    · cases h
    · split at h
      · cases h
      · unfold rowCommand at h
        split at h <;> first | (injection h with h; subst h; simp_all) | cases h

/-- A word with the fields of a command decodes to it. -/
theorem decode_fields {c : Word} (hz0 : (fieldZ0 c).toNat = 0) (hz1 : (fieldZ1 c).toNat = 0)
    (hop : (fieldOP c).toNat ≠ 0) (hop' : (fieldOP c).toNat < 8)
    (hb : (fieldOP c).toNat = 7 ∨ (fieldB c).toNat = 0) :
    decode c = rowCommand (fieldOP c).toNat (fieldA c) (fieldB c) := by
  have z0 : fieldZ0 c = 0 := by simpa [← BitVec.toNat_inj] using hz0
  have z1 : fieldZ1 c = 0 := by simpa [← BitVec.toNat_inj] using hz1
  have zb : (fieldOP c).toNat = 7 ∨ fieldB c = 0 := by simpa [← BitVec.toNat_inj] using hb
  unfold decode
  rw [if_neg (by simp [z0, z1]), if_neg (by omega), if_neg (by tauto)]

end Sys2Proof
end

