-- ==== Sys2Proof/Laws/Operands.lean ====
section
/-! SUPPORT. One lemma per operand form: packing of buffers (R36), the handle operand (R94), the lowest free slot (R79). -/

namespace Sys2Proof.Machine

/-- The bytes of a word are the bytes it was made of, in order (R10). -/
theorem wordByte_wordOf (b0 b1 b2 b3 : Byte) :
    wordByte (wordOf b0 b1 b2 b3) 0 = b0 ∧ wordByte (wordOf b0 b1 b2 b3) 1 = b1 ∧
      wordByte (wordOf b0 b1 b2 b3) 2 = b2 ∧ wordByte (wordOf b0 b1 b2 b3) 3 = b3 := by
  have h0 := b0.isLt; have h1 := b1.isLt; have h2 := b2.isLt; have h3 := b3.isLt
  refine ⟨?_, ?_, ?_, ?_⟩ <;> apply BitVec.eq_of_toNat_eq <;>
    simp only [wordByte, wordOf, BitVec.extractLsb'_toNat, BitVec.toNat_append, Nat.shiftLeft_eq,
      Nat.shiftRight_eq_div_pow] <;>
    (repeat rw [Nat.mul_comm _ (2 ^ 8), ← Nat.two_pow_add_eq_or_of_lt (by omega)]) <;> omega

/-- A written register holds the bytes of the word; every other byte of the buffer is as before (R36). -/
theorem unpackWord_getElem {n : Nat} (buf : Vector Byte n) (j : Nat) (v : Word) (i : Nat) (h : i < n) :
    (unpackWord buf j v)[i] = if i / 4 = j then wordByte v (i % 4) else buf[i] := by
  simp [unpackWord]

/-- A handle names a live slot exactly when the slot exists and its valid bit is set (R94, R100, R106). -/
theorem liveSlot?_eq_some {s : State} {h : Nat} {slot : Slot} :
    s.liveSlot? h = some slot ↔ s.ctx[h]? = some slot ∧ slot.valid = true := by
  unfold State.liveSlot?
  cases hc : s.ctx[h]? with
  | none => simp
  | some sl =>
    by_cases hv : sl.valid = true
    · simp only [hv, if_true, Option.some.injEq]; grind
    · simp only [hv]; grind

/-- No live slot: `h >= NCTX` or `CTX[h].valid` = 0. -/
theorem liveSlot?_eq_none {s : State} {h : Nat} :
    s.liveSlot? h = none ↔ s.ctx.length ≤ h ∨ ∃ slot, s.ctx[h]? = some slot ∧ slot.valid = false := by
  unfold State.liveSlot?
  cases hc : s.ctx[h]? with
  | none => simp [List.getElem?_eq_none_iff.mp hc]
  | some sl =>
    have hlt : h < s.ctx.length := (List.getElem?_eq_some_iff.mp hc).1
    by_cases hv : sl.valid = true <;> simp [hv]; omega

/-- The lowest free slot is free, and every slot below it is live (R79). -/
theorem lowestFree?_eq_some {s : State} {h : Nat} :
    s.lowestFree? = some h ↔
      (∃ slot, s.ctx[h]? = some slot ∧ slot.valid = false) ∧
        ∀ j, j < h → ∃ slot, s.ctx[j]? = some slot ∧ slot.valid = true := by
  unfold State.lowestFree?
  rw [List.findIdx?_eq_some_iff_getElem]
  constructor
  · rintro ⟨hlt, hv, hj⟩
    refine ⟨⟨s.ctx[h], by simp [hlt], by simpa using hv⟩, fun j hjh => ⟨s.ctx[j], by simp, ?_⟩⟩
    simpa using hj j hjh
  · rintro ⟨⟨slot, hs, hv⟩, hj⟩
    obtain ⟨hlt, rfl⟩ := List.getElem?_eq_some_iff.mp hs
    refine ⟨hlt, by simpa using hv, fun j hjh => ?_⟩
    obtain ⟨sl, hsl, hslv⟩ := hj j hjh
    obtain ⟨_, rfl⟩ := List.getElem?_eq_some_iff.mp hsl
    simpa using hslv

/-- No free slot: every slot is live (R83). -/
theorem lowestFree?_eq_none {s : State} : s.lowestFree? = none ↔ ∀ slot ∈ s.ctx, slot.valid = true := by
  simp [State.lowestFree?]

end Sys2Proof.Machine
end

