-- ==== Sys2Proof/Laws/State.lean ====
section
/-! SUPPORT. Beside State: one lemma per field per update, so that no proof unfolds a record update. -/

namespace Sys2Proof.Machine

@[simp] theorem State.raise_key (s : State) (e : Err) :
    (s.raise e).key = s.key := rfl
@[simp] theorem State.raise_din (s : State) (e : Err) :
    (s.raise e).din = s.din := rfl
@[simp] theorem State.raise_dout (s : State) (e : Err) :
    (s.raise e).dout = s.dout := rfl
@[simp] theorem State.raise_res (s : State) (e : Err) :
    (s.raise e).res = s.res := rfl
@[simp] theorem State.raise_err (s : State) (e : Err) :
    (s.raise e).err = e.code := rfl
@[simp] theorem State.raise_misuse (s : State) (e : Err) :
    (s.raise e).misuse = misuseAfter s.misuse e := rfl
@[simp] theorem State.raise_ctx (s : State) (e : Err) :
    (s.raise e).ctx = s.ctx := rfl
@[simp] theorem State.raise_pending (s : State) (e : Err) :
    (s.raise e).pending = s.pending := rfl
@[simp] theorem State.raise_responses (s : State) (e : Err) :
    (s.raise e).responses = s.responses := rfl

@[simp] theorem State.done_key (s : State) :
    (s.done).key = s.key := rfl
@[simp] theorem State.done_din (s : State) :
    (s.done).din = s.din := rfl
@[simp] theorem State.done_dout (s : State) :
    (s.done).dout = s.dout := rfl
@[simp] theorem State.done_res (s : State) :
    (s.done).res = s.res := rfl
@[simp] theorem State.done_err (s : State) :
    (s.done).err = 0 := rfl
@[simp] theorem State.done_misuse (s : State) :
    (s.done).misuse = s.misuse := rfl
@[simp] theorem State.done_ctx (s : State) :
    (s.done).ctx = s.ctx := rfl
@[simp] theorem State.done_pending (s : State) :
    (s.done).pending = s.pending := rfl
@[simp] theorem State.done_responses (s : State) :
    (s.done).responses = s.responses := rfl

@[simp] theorem State.setRes_key (s : State) (v : Word) :
    (s.setRes v).key = s.key := rfl
@[simp] theorem State.setRes_din (s : State) (v : Word) :
    (s.setRes v).din = s.din := rfl
@[simp] theorem State.setRes_dout (s : State) (v : Word) :
    (s.setRes v).dout = s.dout := rfl
@[simp] theorem State.setRes_res (s : State) (v : Word) :
    (s.setRes v).res = v := rfl
@[simp] theorem State.setRes_err (s : State) (v : Word) :
    (s.setRes v).err = s.err := rfl
@[simp] theorem State.setRes_misuse (s : State) (v : Word) :
    (s.setRes v).misuse = s.misuse := rfl
@[simp] theorem State.setRes_ctx (s : State) (v : Word) :
    (s.setRes v).ctx = s.ctx := rfl
@[simp] theorem State.setRes_pending (s : State) (v : Word) :
    (s.setRes v).pending = s.pending := rfl
@[simp] theorem State.setRes_responses (s : State) (v : Word) :
    (s.setRes v).responses = s.responses := rfl

@[simp] theorem State.setDout_key (s : State) (b : Block) :
    (s.setDout b).key = s.key := rfl
@[simp] theorem State.setDout_din (s : State) (b : Block) :
    (s.setDout b).din = s.din := rfl
@[simp] theorem State.setDout_dout (s : State) (b : Block) :
    (s.setDout b).dout = b := rfl
@[simp] theorem State.setDout_res (s : State) (b : Block) :
    (s.setDout b).res = s.res := rfl
@[simp] theorem State.setDout_err (s : State) (b : Block) :
    (s.setDout b).err = s.err := rfl
@[simp] theorem State.setDout_misuse (s : State) (b : Block) :
    (s.setDout b).misuse = s.misuse := rfl
@[simp] theorem State.setDout_ctx (s : State) (b : Block) :
    (s.setDout b).ctx = s.ctx := rfl
@[simp] theorem State.setDout_pending (s : State) (b : Block) :
    (s.setDout b).pending = s.pending := rfl
@[simp] theorem State.setDout_responses (s : State) (b : Block) :
    (s.setDout b).responses = s.responses := rfl

@[simp] theorem State.setSlot_key (s : State) (h : Nat) (slot : Slot) :
    (s.setSlot h slot).key = s.key := rfl
@[simp] theorem State.setSlot_din (s : State) (h : Nat) (slot : Slot) :
    (s.setSlot h slot).din = s.din := rfl
@[simp] theorem State.setSlot_dout (s : State) (h : Nat) (slot : Slot) :
    (s.setSlot h slot).dout = s.dout := rfl
@[simp] theorem State.setSlot_res (s : State) (h : Nat) (slot : Slot) :
    (s.setSlot h slot).res = s.res := rfl
@[simp] theorem State.setSlot_err (s : State) (h : Nat) (slot : Slot) :
    (s.setSlot h slot).err = s.err := rfl
@[simp] theorem State.setSlot_misuse (s : State) (h : Nat) (slot : Slot) :
    (s.setSlot h slot).misuse = s.misuse := rfl
@[simp] theorem State.setSlot_ctx (s : State) (h : Nat) (slot : Slot) :
    (s.setSlot h slot).ctx = s.ctx.set h slot := rfl
@[simp] theorem State.setSlot_pending (s : State) (h : Nat) (slot : Slot) :
    (s.setSlot h slot).pending = s.pending := rfl
@[simp] theorem State.setSlot_responses (s : State) (h : Nat) (slot : Slot) :
    (s.setSlot h slot).responses = s.responses := rfl

@[simp] theorem State.byteResult_key (s : State) (b : Byte) :
    (s.byteResult b).key = s.key := rfl
@[simp] theorem State.byteResult_din (s : State) (b : Byte) :
    (s.byteResult b).din = s.din := rfl
@[simp] theorem State.byteResult_dout (s : State) (b : Byte) :
    (s.byteResult b).dout = s.dout := rfl
@[simp] theorem State.byteResult_res (s : State) (b : Byte) :
    (s.byteResult b).res = zext32 b := rfl
@[simp] theorem State.byteResult_err (s : State) (b : Byte) :
    (s.byteResult b).err = 0 := rfl
@[simp] theorem State.byteResult_misuse (s : State) (b : Byte) :
    (s.byteResult b).misuse = s.misuse := rfl
@[simp] theorem State.byteResult_ctx (s : State) (b : Byte) :
    (s.byteResult b).ctx = s.ctx := rfl
@[simp] theorem State.byteResult_pending (s : State) (b : Byte) :
    (s.byteResult b).pending = s.pending := rfl
@[simp] theorem State.byteResult_responses (s : State) (b : Byte) :
    (s.byteResult b).responses = s.responses := rfl

@[simp] theorem State.respond_key (s : State) (r : Nat) (v : Word) :
    (s.respond r v).key = s.key := rfl
@[simp] theorem State.respond_din (s : State) (r : Nat) (v : Word) :
    (s.respond r v).din = s.din := rfl
@[simp] theorem State.respond_dout (s : State) (r : Nat) (v : Word) :
    (s.respond r v).dout = s.dout := rfl
@[simp] theorem State.respond_res (s : State) (r : Nat) (v : Word) :
    (s.respond r v).res = s.res := rfl
@[simp] theorem State.respond_err (s : State) (r : Nat) (v : Word) :
    (s.respond r v).err = s.err := rfl
@[simp] theorem State.respond_misuse (s : State) (r : Nat) (v : Word) :
    (s.respond r v).misuse = s.misuse := rfl
@[simp] theorem State.respond_ctx (s : State) (r : Nat) (v : Word) :
    (s.respond r v).ctx = s.ctx := rfl
@[simp] theorem State.respond_pending (s : State) (r : Nat) (v : Word) :
    (s.respond r v).pending = s.pending := rfl
@[simp] theorem State.respond_responses (s : State) (r : Nat) (v : Word) :
    (s.respond r v).responses = s.responses ++ [⟨r, v⟩] := rfl

@[simp] theorem State.setPending_key (s : State) (es : List Event) :
    (s.setPending es).key = s.key := rfl
@[simp] theorem State.setPending_din (s : State) (es : List Event) :
    (s.setPending es).din = s.din := rfl
@[simp] theorem State.setPending_dout (s : State) (es : List Event) :
    (s.setPending es).dout = s.dout := rfl
@[simp] theorem State.setPending_res (s : State) (es : List Event) :
    (s.setPending es).res = s.res := rfl
@[simp] theorem State.setPending_err (s : State) (es : List Event) :
    (s.setPending es).err = s.err := rfl
@[simp] theorem State.setPending_misuse (s : State) (es : List Event) :
    (s.setPending es).misuse = s.misuse := rfl
@[simp] theorem State.setPending_ctx (s : State) (es : List Event) :
    (s.setPending es).ctx = s.ctx := rfl
@[simp] theorem State.setPending_pending (s : State) (es : List Event) :
    (s.setPending es).pending = es := rfl
@[simp] theorem State.setPending_responses (s : State) (es : List Event) :
    (s.setPending es).responses = s.responses := rfl

@[simp] theorem State.resetEvent_key (s : State) :
    (s.resetEvent).key = Vector.replicate 32 0 := rfl
@[simp] theorem State.resetEvent_din (s : State) :
    (s.resetEvent).din = Vector.replicate 16 0 := rfl
@[simp] theorem State.resetEvent_dout (s : State) :
    (s.resetEvent).dout = Vector.replicate 16 0 := rfl
@[simp] theorem State.resetEvent_res (s : State) :
    (s.resetEvent).res = 0 := rfl
@[simp] theorem State.resetEvent_err (s : State) :
    (s.resetEvent).err = 0 := rfl
@[simp] theorem State.resetEvent_misuse (s : State) :
    (s.resetEvent).misuse = false := rfl
@[simp] theorem State.resetEvent_ctx (s : State) :
    (s.resetEvent).ctx = List.replicate s.ctx.length Slot.free := rfl
@[simp] theorem State.resetEvent_pending (s : State) :
    (s.resetEvent).pending = s.pending := rfl
@[simp] theorem State.resetEvent_responses (s : State) :
    (s.resetEvent).responses = s.responses := rfl

@[simp] theorem State.resetWith_key (n : Nat) : (State.resetWith n).key = Vector.replicate 32 0 := rfl
@[simp] theorem State.resetWith_din (n : Nat) : (State.resetWith n).din = Vector.replicate 16 0 := rfl
@[simp] theorem State.resetWith_dout (n : Nat) : (State.resetWith n).dout = Vector.replicate 16 0 := rfl
@[simp] theorem State.resetWith_res (n : Nat) : (State.resetWith n).res = 0 := rfl
@[simp] theorem State.resetWith_err (n : Nat) : (State.resetWith n).err = 0 := rfl
@[simp] theorem State.resetWith_misuse (n : Nat) : (State.resetWith n).misuse = false := rfl
@[simp] theorem State.resetWith_ctx (n : Nat) : (State.resetWith n).ctx = List.replicate n Slot.free := rfl
@[simp] theorem State.resetWith_pending (n : Nat) : (State.resetWith n).pending = [] := rfl
@[simp] theorem State.resetWith_responses (n : Nat) : (State.resetWith n).responses = [] := rfl

@[simp] theorem State.regStore_dout (s : State) (off : Nat) (v : Word) :
    (s.regStore off v).dout = s.dout := by
  unfold State.regStore; split <;> (try split) <;> rfl
@[simp] theorem State.regStore_res (s : State) (off : Nat) (v : Word) :
    (s.regStore off v).res = s.res := by
  unfold State.regStore; split <;> (try split) <;> rfl
@[simp] theorem State.regStore_err (s : State) (off : Nat) (v : Word) :
    (s.regStore off v).err = s.err := by
  unfold State.regStore; split <;> (try split) <;> rfl
@[simp] theorem State.regStore_misuse (s : State) (off : Nat) (v : Word) :
    (s.regStore off v).misuse = s.misuse := by
  unfold State.regStore; split <;> (try split) <;> rfl
@[simp] theorem State.regStore_ctx (s : State) (off : Nat) (v : Word) :
    (s.regStore off v).ctx = s.ctx := by
  unfold State.regStore; split <;> (try split) <;> rfl
@[simp] theorem State.regStore_pending (s : State) (off : Nat) (v : Word) :
    (s.regStore off v).pending = s.pending := by
  unfold State.regStore; split <;> (try split) <;> rfl
@[simp] theorem State.regStore_responses (s : State) (off : Nat) (v : Word) :
    (s.regStore off v).responses = s.responses := by
  unfold State.regStore; split <;> (try split) <;> rfl

@[simp] theorem State.nctx_eq (s : State) : s.nctx = s.ctx.length := rfl
@[simp] theorem Slot.free_valid : Slot.free.valid = false := rfl
@[simp] theorem Slot.free_nr : Slot.free.nr = 0 := rfl
@[simp] theorem newContext_valid (key : List Byte) : (newContext key).valid = true := rfl

/-- Two states are equal when every field is. -/
theorem State.ext_fields {s t : State} (key : s.key = t.key) (din : s.din = t.din) (dout : s.dout = t.dout)
    (res : s.res = t.res) (err : s.err = t.err) (misuse : s.misuse = t.misuse) (ctx : s.ctx = t.ctx)
    (pending : s.pending = t.pending) (responses : s.responses = t.responses) : s = t := by
  cases s; cases t; simp_all

end Sys2Proof.Machine
end

