-- ==== Sys2Proof/Laws/Exec.lean ====
section
/-! SUPPORT. What a command can do, said once: every outcome of `exec` (R29, R113), for proofs to take apart by cases. -/

namespace Sys2Proof.Machine

/-- The outcomes of a command: its three kinds of error, and the effect of each command without an error. -/
inductive ExecResult : Instr → State → State → Prop
  | badLength {klen : Nat} {s : State} (h : ¬ validKeyLength klen) :
      ExecResult (.keyexp klen) s (s.raise .invalidKeyLength)
  | noFree {klen : Nat} {s : State} (h : validKeyLength klen) (full : s.lowestFree? = none) :
      ExecResult (.keyexp klen) s (s.raise .noFreeContext)
  | created {klen : Nat} {s : State} {h : Nat} (hk : validKeyLength klen) (free : s.lowestFree? = some h) :
      ExecResult (.keyexp klen) s ((s.setSlot h (newContext (s.keyBytes klen))).setRes (handleWord h)).done
  | badContext {i : Instr} {s : State} {h : Nat} (hi : i = .enc h ∨ i = .dec h ∨ i = .release h)
      (none : s.liveSlot? h = none) : ExecResult i s (s.raise .invalidContext)
  | encrypted {s : State} {h : Nat} {slot : Slot} (live : s.liveSlot? h = some slot) :
      ExecResult (.enc h) s (s.setDout (slot.encrypt s.din)).done
  | decrypted {s : State} {h : Nat} {slot : Slot} (live : s.liveSlot? h = some slot) :
      ExecResult (.dec h) s (s.setDout (slot.decrypt s.din)).done
  | released {s : State} {h : Nat} {slot : Slot} (live : s.liveSlot? h = some slot) :
      ExecResult (.release h) s (s.setSlot h Slot.free).done
  | byteOut {i : Instr} {s : State} {b : Byte}
      (hi : (∃ x, i = .sbox x ∧ b = sboxAt x) ∨ (∃ x, i = .invsbox x ∧ b = invSboxAt x) ∨
        ∃ x y, i = .gfmul x y ∧ b = gfmul x y) : ExecResult i s (s.byteResult b)

/-- Every command ends in a next state, and it is one of `ExecResult`. -/
theorem exec_result (i : Instr) (s : State) : ∃ t, exec i s = .next t ∧ ExecResult i s t := by
  cases i with
  | keyexp klen =>
    by_cases hk : validKeyLength klen
    · cases hf : s.lowestFree? with
      | none => exact ⟨_, by simp [exec, execKeyexp, hk, hf], .noFree hk hf⟩
      | some h => exact ⟨_, by simp [exec, execKeyexp, hk, hf], .created hk hf⟩
    · exact ⟨_, by simp [exec, execKeyexp, hk], .badLength hk⟩
  | enc h =>
    cases hl : s.liveSlot? h with
    | none => exact ⟨_, by simp [exec, execEnc, hl], .badContext (.inl rfl) hl⟩
    | some slot => exact ⟨_, by simp [exec, execEnc, hl], .encrypted hl⟩
  | dec h =>
    cases hl : s.liveSlot? h with
    | none => exact ⟨_, by simp [exec, execDec, hl], .badContext (.inr (.inl rfl)) hl⟩
    | some slot => exact ⟨_, by simp [exec, execDec, hl], .decrypted hl⟩
  | release h =>
    cases hl : s.liveSlot? h with
    | none => exact ⟨_, by simp [exec, execRelease, hl], .badContext (.inr (.inr rfl)) hl⟩
    | some slot => exact ⟨_, by simp [exec, execRelease, hl], .released hl⟩
  | sbox x => exact ⟨_, rfl, .byteOut (.inl ⟨x, rfl, rfl⟩)⟩
  | invsbox x => exact ⟨_, rfl, .byteOut (.inr (.inl ⟨x, rfl, rfl⟩))⟩
  | gfmul a b => exact ⟨_, rfl, .byteOut (.inr (.inr ⟨a, b, rfl, rfl⟩))⟩

/-- The next state of a command is one of `ExecResult`. -/
theorem exec_cases {i : Instr} {s t : State} (h : exec i s = .next t) : ExecResult i s t := by
  obtain ⟨t', ht, hr⟩ := exec_result i s
  rw [ht] at h
  injection h with h
  exact h ▸ hr

/-- A command keeps the requesters' side, the key and the input, and the number of slots (R15, R16, R139). -/
theorem ExecResult.kept {i : Instr} {s t : State} (h : ExecResult i s t) :
    t.pending = s.pending ∧ t.responses = s.responses ∧ t.key = s.key ∧ t.din = s.din ∧
      t.ctx.length = s.ctx.length := by
  cases h <;> simp

end Sys2Proof.Machine
end

