-- ==== Sys2Proof/Laws/PerInstr.lean ====
section
/-! SUPPORT. The families of statements made per instruction (LAWS.json). -/

namespace Sys2Proof.Laws.EncodeSelectsRow

open Sys2Proof

/-- The encoding of a well-formed command selects the opcode-map row of its own mnemonic and no other (R47). -/
def Statement (i : Instr) : Prop :=
  i.wellFormed = true → ∀ row ∈ opcodeTable, row.selects (encode i) = (row.mnemonic == i.mnemonic)

/-- A command word with opcode `op` and no second operand, against the mask of R47's first six rows. -/
theorem word_and_mask_A (op a : Nat) (ho : op < 16) (ha : a ≤ 255) :
    commandWord op a 0 &&& 0xFFFF00FF#32 = BitVec.ofNat 32 op ∧
      commandWord op a 0 &&& 0xFF0000FF#32 = BitVec.ofNat 32 op := by
  have h : ∀ o : Fin 16, ∀ x : Fin 256,
      commandWord o.val x.val 0 &&& 0xFFFF00FF#32 = BitVec.ofNat 32 o.val ∧
        commandWord o.val x.val 0 &&& 0xFF0000FF#32 = BitVec.ofNat 32 o.val := by decide +kernel
  exact h ⟨op, ho⟩ ⟨a, by omega⟩

/-- The word of GFMUL against both masks of R47: it selects row 7, and its low byte keeps it from the other rows. -/
theorem gfmul_word_and_mask (a b : Byte) :
    commandWord 7 a.toNat b.toNat &&& 0xFF0000FF#32 = 7#32 ∧
      ∀ k : Fin 7, commandWord 7 a.toNat b.toNat &&& 0xFFFF00FF#32 ≠ BitVec.ofNat 32 k.val := by
  have hsplit : commandWord 7 a.toNat b.toNat = commandWord 0 0 b.toNat ||| commandWord 7 a.toNat 0 := by
    apply BitVec.eq_of_toNat_eq
    rw [BitVec.toNat_or, commandWord_toNat _ _ _ (by omega) (by omega) (by omega),
      commandWord_toNat _ _ _ (by omega) (by omega) (by omega),
      commandWord_toNat _ _ _ (by omega) (by omega) (by omega)]
    have := Nat.two_pow_add_eq_or_of_lt (i := 16) (b := 7 + a.toNat * 2 ^ 8) (by omega) b.toNat
    rw [show 0 + 0 * 2 ^ 8 + b.toNat * 2 ^ 16 = 2 ^ 16 * b.toNat by omega,
      show 7 + a.toNat * 2 ^ 8 + 0 * 2 ^ 16 = 7 + a.toNat * 2 ^ 8 by omega, ← this]
    omega
  have hb : ∀ b : Fin 256, commandWord 0 0 b.val &&& 0xFF0000FF#32 = 0#32 ∧
      ∀ k : Fin 7, (commandWord 0 0 b.val &&& 0xFFFF00FF#32) ||| 7#32 ≠ BitVec.ofNat 32 k.val := by decide +kernel
  have ha := word_and_mask_A 7 a.toNat (by omega) (by omega)
  have hb := hb ⟨b.toNat, by omega⟩
  have hdist : ∀ x y m : Word, (x ||| y) &&& m = (x &&& m) ||| (y &&& m) := by
    intro x y m; ext i hi; simp [Bool.and_or_distrib_right]
  rw [hsplit, hdist, hdist, ha.1, ha.2]
  exact ⟨by rw [hb.1]; rfl, hb.2⟩

/-- A row of the first six, on a word whose masked value is its own opcode. -/
theorem selects_of_masks (i : Instr) (op : Nat)
    (h : encode i &&& 0xFFFF00FF#32 = BitVec.ofNat 32 op ∧ encode i &&& 0xFF0000FF#32 = BitVec.ofNat 32 op)
    (hm : ∀ row ∈ opcodeTable, (row.pattern == BitVec.ofNat 32 op) = (row.mnemonic == i.mnemonic)) :
    ∀ row ∈ opcodeTable, row.selects (encode i) = (row.mnemonic == i.mnemonic) := by
  intro row hrow
  rw [← hm row hrow]
  have hmask : row.mask = 0xFFFF00FF#32 ∨ row.mask = 0xFF0000FF#32 := by
    simp only [opcodeTable, List.mem_cons, List.not_mem_nil, or_false] at hrow
    rcases hrow with rfl | rfl | rfl | rfl | rfl | rfl | rfl <;> simp
  unfold OpcodeRow.selects
  rcases hmask with hk | hk <;> rw [hk] <;> simp only [h.1, h.2] <;> exact Bool.beq_comm

theorem keyexp (klen : Nat) : Statement (.keyexp klen) := fun h =>
  selects_of_masks _ 1 (word_and_mask_A 1 klen (by omega) (by simpa [Instr.wellFormed] using h)) (by simp [opcodeTable, Instr.mnemonic])
theorem enc (h : Nat) : Statement (.enc h) := fun hw =>
  selects_of_masks _ 2 (word_and_mask_A 2 h (by omega) (by simpa [Instr.wellFormed] using hw)) (by simp [opcodeTable, Instr.mnemonic])
theorem dec (h : Nat) : Statement (.dec h) := fun hw =>
  selects_of_masks _ 3 (word_and_mask_A 3 h (by omega) (by simpa [Instr.wellFormed] using hw)) (by simp [opcodeTable, Instr.mnemonic])
theorem release (h : Nat) : Statement (.release h) := fun hw =>
  selects_of_masks _ 4 (word_and_mask_A 4 h (by omega) (by simpa [Instr.wellFormed] using hw)) (by simp [opcodeTable, Instr.mnemonic])
theorem sbox (x : Byte) : Statement (.sbox x) := fun _ =>
  selects_of_masks _ 5 (word_and_mask_A 5 x.toNat (by omega) (by omega)) (by simp [opcodeTable, Instr.mnemonic])
theorem invsbox (x : Byte) : Statement (.invsbox x) := fun _ =>
  selects_of_masks _ 6 (word_and_mask_A 6 x.toNat (by omega) (by omega)) (by simp [opcodeTable, Instr.mnemonic])
theorem gfmul (a b : Byte) : Statement (.gfmul a b) := by
  intro _ row hrow
  obtain ⟨h7, hk⟩ := gfmul_word_and_mask a b
  have hk : ∀ k, k < 7 → commandWord 7 a.toNat b.toNat &&& 0xFFFF00FF#32 ≠ BitVec.ofNat 32 k :=
    fun k hlt => hk ⟨k, hlt⟩
  simp only [opcodeTable, List.mem_cons, List.not_mem_nil, or_false] at hrow
  rcases hrow with rfl | rfl | rfl | rfl | rfl | rfl | rfl <;>
    simp [OpcodeRow.selects, encode, Instr.mnemonic, h7, hk 1, hk 2, hk 3, hk 4, hk 5, hk 6]

end Sys2Proof.Laws.EncodeSelectsRow
end

