-- ==== Sys2Proof/Laws/Schedule.lean ====
section
/-! SUPPORT. The loop of the key expansion: its length, and that the words already made are kept (R76, R77). -/

namespace Sys2Proof.Machine

theorem extendSchedule_length (nk n : Nat) (w : List Word) : (extendSchedule nk n w).length = w.length + n := by
  induction n generalizing w with
  | zero => rfl
  | succ n ih => simp only [extendSchedule, ih, List.length_append, List.length_singleton]; omega

/-- The loop only appends. -/
theorem extendSchedule_prefix (nk n : Nat) (w : List Word) : w <+: extendSchedule nk n w := by
  induction n generalizing w with
  | zero => exact List.prefix_refl w
  | succ n ih => exact (List.prefix_append w _).trans (ih _)

/-- Each word the loop makes is `nextWord` of the words before it. -/
theorem extendSchedule_getElem? (nk n : Nat) (w : List Word) (i : Nat) (h : w.length ≤ i) (h' : i < w.length + n) :
    (extendSchedule nk n w)[i]? = some (nextWord nk ((extendSchedule nk n w).take i)) := by
  induction n generalizing w with
  | zero => omega
  | succ n ih =>
    simp only [extendSchedule]
    by_cases hi : w.length = i
    · have hp := extendSchedule_prefix nk n (w ++ [nextWord nk w])
      obtain ⟨l, hl⟩ := hp
      rw [← hl]
      subst hi
      simp
    · exact ih _ (by simp; omega) (by simp; omega)

theorem scheduleLength_eq (klen : Nat) : scheduleLength klen = 4 * (klen / 4) + 28 := by
  simp only [scheduleLength, roundCount, keyWordCount]; omega

/-- The schedule of a key has `4·(Nr+1)` words (R77). -/
theorem keyExpansion_length (key : List Byte) : (keyExpansion key).length = scheduleLength key.length := by
  simp only [keyExpansion, extendSchedule_length, List.length_map, List.length_range, keyWordCount, scheduleLength_eq]
  omega

/-- Word `j` of a new context: the schedule's, and 0 past it (R80). -/
theorem newContext_rk (key : List Byte) (j : Nat) (h : j < 60) :
    (newContext key).rk[j] = (keyExpansion key).getD j 0 := by
  simp [newContext]

end Sys2Proof.Machine
end

