-- ==== Sys2Proof/Laws/Step.lean ====
section
/-! SUPPORT. What an event can do, said once: every outcome of the step (R33, R39, R127). -/

namespace Sys2Proof.Machine

theorem Access.check_eq_none {bytes off : Nat} :
    Access.refusal?.check bytes off = none ↔ bytes = 4 ∧ off % 4 = 0 ∧ off ≤ 0xFC := by
  unfold Access.refusal?.check Config.lastOffset
  by_cases h : bytes = 4 <;> by_cases h' : off % 4 = 0 <;> by_cases h'' : 0xFC < off <;> simp [h, h', h'']; omega

/-- An access has a meaning exactly when it is a 4-byte read or write at an aligned offset in 0x00..0xFC (R33). -/
theorem Access.refusal?_eq_none {a : Access} :
    a.refusal? = none ↔
      ∃ off, off % 4 = 0 ∧ off ≤ 0xFC ∧ (a = .read 4 off ∨ ∃ v, a = .write 4 off v) := by
  cases a with
  | burst n off => simp [Access.refusal?]
  | read n off =>
    rw [Access.refusal?, Access.check_eq_none]
    constructor
    · rintro ⟨rfl, h⟩; exact ⟨off, h.1, h.2, .inl rfl⟩
    · rintro ⟨off', h, h', he | ⟨_, he⟩⟩ <;> cases he; exact ⟨rfl, h, h'⟩
  | write n off v =>
    rw [Access.refusal?, Access.check_eq_none]
    constructor
    · rintro ⟨rfl, h⟩; exact ⟨off, h.1, h.2, .inr ⟨v, rfl⟩⟩
    · rintro ⟨off', h, h', he | ⟨_, he⟩⟩ <;> cases he; exact ⟨rfl, h, h'⟩

/-- The outcomes of one event, on the state `s` from which it has been taken. -/
inductive EventResult : Event → State → State → Prop
  | reset {s : State} : EventResult .reset s s.resetEvent
  | read {s : State} {r off : Nat} (aligned : off % 4 = 0) (inside : off ≤ 0xFC) :
      EventResult (.access r (.read 4 off)) s (s.respond r (s.regRead off))
  | store {s : State} {r off : Nat} {v : Word} (aligned : off % 4 = 0) (inside : off ≤ 0xFC) (notCmd : off ≠ 0) :
      EventResult (.access r (.write 4 off v)) s (s.regStore off v)
  | command {s t : State} {r : Nat} {c : Word} {i : Instr} (legal : decode c = .ok i) (ran : exec i s = .next t) :
      EventResult (.access r (.write 4 0 c)) s t
  | illegal {s : State} {r : Nat} {c : Word} {e : Illegal} (illegal : decode c = .error e) :
      EventResult (.access r (.write 4 0 c)) s (s.raise .illegalCommand)

/-- An event is refused as its access is, or ends in a next state that is one of `EventResult`. -/
theorem happen_result (s : State) (e : Event) :
    (∃ r a ref, e = .access r a ∧ a.refusal? = some ref ∧ s.happen e = .refused ref) ∨
      ∃ t, s.happen e = .next t ∧ EventResult e s t := by
  cases e with
  | reset => exact .inr ⟨_, rfl, .reset⟩
  | access r a =>
    cases hr : a.refusal? with
    | some ref => exact .inl ⟨r, a, ref, rfl, hr, by simp [State.happen, State.perform, hr]⟩
    | none =>
      right
      have hs : s.happen (.access r a) = s.regAccess r a := by simp [State.happen, State.perform, hr]
      obtain ⟨off, hal, hin, rfl | ⟨v, rfl⟩⟩ := Access.refusal?_eq_none.mp hr
      · exact ⟨_, hs, .read hal hin⟩
      · rw [hs]
        by_cases h0 : off = 0
        · subst h0
          cases hd : decode v with
          | ok i =>
            obtain ⟨t, ht, _⟩ := exec_result i s
            exact ⟨t, by simp [State.regAccess, execWord, hd, ht], .command hd ht⟩
          | error e => exact ⟨_, by simp [State.regAccess, execWord, hd], .illegal hd⟩
        · exact ⟨_, by simp [State.regAccess, h0], .store hal hin h0⟩

/-- The step with no event to come changes nothing. -/
theorem step_idle {s : State} (h : s.pending = []) : step s = .next s := by simp [step, h, State.stepOn]

/-- The step with an event to come is that event, taken from the list. -/
theorem step_event {s : State} {e : Event} {rest : List Event} (h : s.pending = e :: rest) :
    step s = (s.setPending rest).happen e := by simp [step, h, State.stepOn]

/-- The next state of a step: idle, or an event's result. -/
theorem step_cases {s t : State} (h : step s = .next t) :
    (s.pending = [] ∧ t = s) ∨ ∃ e rest, s.pending = e :: rest ∧ EventResult e (s.setPending rest) t := by
  cases hp : s.pending with
  | nil =>
    rw [step_idle hp] at h
    injection h with h
    exact .inl ⟨rfl, h.symm⟩
  | cons e rest =>
    right
    rw [step_event hp] at h
    obtain ⟨_, _, _, _, _, hr⟩ | ⟨t', ht, hr⟩ := happen_result (s.setPending rest) e
    · rw [hr] at h; cases h
    · rw [ht] at h
      injection h with h
      exact ⟨e, rest, rfl, h ▸ hr⟩

/-- A command word that decodes is executed by the step at which it is the next event (R19, R135). -/
theorem step_command {s : State} {r : Nat} {c : Word} {rest : List Event} {i : Instr}
    (h : s.pending = .access r (.write 4 0 c) :: rest) (hd : decode c = .ok i) :
    step s = exec i (s.setPending rest) := by
  rw [step_event h]
  have : (Access.write 4 0 c).refusal? = none :=
    Access.refusal?_eq_none.mpr ⟨0, rfl, by omega, .inr ⟨c, rfl⟩⟩
  simp [State.happen, State.perform, this, State.regAccess, execWord, hd]

end Sys2Proof.Machine
end

