-- ==== Sys2Proof/Tests/Slice0.lean ====
section
/-! SUPPORT. Tests: the well-formedness smoke test, words written out from the spec's encodings, the vectors of
spec/95_test_vectors.md (named V<n>), and a witness for every statement that has hypotheses. -/

namespace Sys2Proof.Tests

-- The tests are elaborated one after another: in parallel they ask for too much memory at once.
set_option Elab.async false

open Sys2Proof Sys2Proof.Machine Sys2Proof.Reference

/-! ### Helpers -/

/-- A block from 32 hexadecimal digits, first byte first. -/
def blk (n : Nat) : Block := Vector.ofFn fun i : Fin 16 => BitVec.ofNat 8 (n >>> (8 * (15 - i.val)))

/-- The bytes 00, 01, 02, ... -/
def countingKey (len : Nat) : List Byte := (List.range len).map (BitVec.ofNat 8)

/-- `len` zero bytes. -/
def zeroKey (len : Nat) : List Byte := List.replicate len 0

/-- The next state of an outcome, if it has one. -/
def next? (o : Host.Outcome State Fault Refusal) : Option State :=
  match o with
  | .next s => some s
  | .fault _ => none
  | .refused _ => none

/-- Was the outcome this refusal? -/
def refusedAs (r : Refusal) (o : Host.Outcome State Fault Refusal) : Bool :=
  match o with
  | .refused r' => r' == r
  | .fault _ => false
  | .next _ => false

/-- The reset state with `n` slots and one event to come. -/
def coming (n : Nat) (e : Event) : State := (State.resetWith n).setPending [e]

/-- A slot that is live, with a schedule of zero words. -/
def liveSlot : Slot := { valid := true, nr := 10, rk := Vector.replicate 60 0 }

/-- Two slots, the first live. -/
def oneLive : State := { State.resetWith 2 with ctx := [liveSlot, Slot.free] }

/-- One slot, holding the context of a key. -/
def holding (key : List Byte) : State := { State.resetWith 1 with ctx := [newContext key] }

/-- The block that `Cipher` makes with a key. -/
def encryptWith (key : List Byte) (b : Block) : Block := (newContext key).encrypt b

/-- The block that `InvCipher` makes with a key. -/
def decryptWith (key : List Byte) (b : Block) : Block := (newContext key).decrypt b

/-- The last four words of a schedule. -/
def lastRoundKey (key : List Byte) : List Word := (keyExpansion key).drop (scheduleLength key.length - 4)

/-! ### Well-formedness (R48, R53): the check refuses an ill-formed term -/

theorem test_wellFormed_keyexp : (Instr.keyexp 255).wellFormed = true ∧ (Instr.keyexp 256).wellFormed = false := by
  decide
theorem test_wellFormed_enc : (Instr.enc 255).wellFormed = true ∧ (Instr.enc 256).wellFormed = false := by decide
theorem test_wellFormed_dec : (Instr.dec 255).wellFormed = true ∧ (Instr.dec 300).wellFormed = false := by decide
theorem test_wellFormed_release : (Instr.release 0).wellFormed = true ∧ (Instr.release 256).wellFormed = false := by
  decide
theorem test_assemble_rejects_256 : assemble "SBOX" [256] = none ∧ assemble "GFMUL" [1, 256] = none ∧
    assemble "GFMUL" [1] = none ∧ assemble "NOP" [1] = none ∧ assemble "ENC" [255] = some (.enc 255) := by decide

/-! ### Words written out bit by bit from R46 and R47 (Z1, B, A, Z0, OP) -/

theorem test_decode_keyexp_24 : decode 0b00000000_00000000_00011000_0000_0001#32 = .ok (.keyexp 24) := by decide
theorem test_decode_enc_255 : decode 0b00000000_00000000_11111111_0000_0010#32 = .ok (.enc 255) := by decide
theorem test_decode_dec_1 : decode 0b00000000_00000000_00000001_0000_0011#32 = .ok (.dec 1) := by decide
theorem test_decode_release_2 : decode 0b00000000_00000000_00000010_0000_0100#32 = .ok (.release 2) := by decide
theorem test_decode_sbox_53 : decode 0b00000000_00000000_01010011_0000_0101#32 = .ok (.sbox 0x53) := by decide
theorem test_decode_invsbox_ED : decode 0b00000000_00000000_11101101_0000_0110#32 = .ok (.invsbox 0xED) := by decide
theorem test_decode_gfmul_57_83 : decode 0b00000000_10000011_01010111_0000_0111#32 = .ok (.gfmul 0x57 0x83) := by
  decide
/-- V25: the illegal words, with the test of R49 that each fails. -/
theorem test_decode_illegal :
    decode 0x00000000#32 = .error .reservedOpcode ∧ decode 0x00000008#32 = .error .reservedOpcode ∧
    decode 0x0000000F#32 = .error .reservedOpcode ∧ decode 0x00010002#32 = .error .operandB ∧
    decode 0x00010001#32 = .error .operandB ∧ decode 0x00000012#32 = .error .reservedField ∧
    decode 0x01000007#32 = .error .reservedField ∧ decode 0xFFFFFFFF#32 = .error .reservedField := by decide
theorem test_decodeTableWord : decodeTableWord 32 0x00FFFF07 = some (.gfmul 0xFF 0xFF) ∧
    decodeTableWord 32 0x00010002 = none ∧ decodeTableWord 8 0xFF02 = some (.enc 0) := by decide

/-! ### The helper units -/

/-- V10. -/
theorem test_gfmul_vectors : gfmul 0x57 0x02 = 0xAE ∧ gfmul 0xAE 0x02 = 0x47 ∧ gfmul 0x80 0x02 = 0x1B ∧
    gfmul 0x57 0x13 = 0xFE ∧ gfmul 0x57 0x83 = 0xC1 ∧ gfmul 0x53 0xCA = 0x01 ∧ gfmul 0x03 0xF6 = 0x01 ∧
    gfmul 0xFF 0xFF = 0x13 ∧ gfmul 0x0E 0x09 = 0x7E ∧ gfmul 0xFF 0x00 = 0x00 := by decide +kernel
/-- V11. -/
theorem test_sbox_vectors : sboxAt 0x00 = 0x63 ∧ sboxAt 0x01 = 0x7C ∧ sboxAt 0x53 = 0xED ∧ sboxAt 0x7F = 0xD2 ∧
    sboxAt 0x80 = 0xCD ∧ sboxAt 0xFF = 0x16 ∧ sboxAt 0x52 = 0x00 := by decide +kernel
/-- V11. -/
theorem test_invsbox_vectors : invSboxAt 0x63 = 0x00 ∧ invSboxAt 0x7C = 0x01 ∧ invSboxAt 0xED = 0x53 ∧
    invSboxAt 0xD2 = 0x7F ∧ invSboxAt 0xCD = 0x80 ∧ invSboxAt 0x16 = 0xFF ∧ invSboxAt 0x00 = 0x52 := by decide +kernel
/-- R63, R66: each listing has 256 entries. -/
theorem test_table_lengths : sboxTable.length = 256 ∧ invSboxTable.length = 256 ∧ rconTable.length = 10 := by
  decide +kernel
/-- V13. -/
theorem test_word_helpers : rotWord 0x0C0D0E0F#32 = 0x0D0E0F0C#32 ∧ subWord 0x0D0E0F0C#32 = 0xD7AB76FE#32 ∧
    subWord 0xCF4F3C09#32 = 0x8A84EB01#32 ∧ rconWord 10 = 0x36000000#32 := by decide +kernel
/-- P4: GFMUL leaves the product in RES and ERR = 0. -/
theorem test_exec_gfmul : (next? (exec (.gfmul 0xDB 0x02) (State.resetWith 1))).map (fun t => (t.res, t.err)) =
    some (0x000000AD#32, 0) := by decide +kernel
/-- V33: SBOX brings ERR back to 0 and leaves MISUSE set. -/
theorem test_exec_sbox : (next? (exec (.sbox 0x00) { State.resetWith 1 with err := 3, misuse := true })).map
    (fun t => (t.res, t.statusWord)) = some (0x00000063#32, 0x00000010#32) := by decide +kernel
/-- R68. -/
theorem test_exec_invsbox : (next? (exec (.invsbox 0xED) (State.resetWith 1))).map (fun t => (t.res, t.statusWord)) =
    some (0x00000053#32, 0x00000000#32) := by decide +kernel

/-! ### The key schedule -/

/-- V20, first and last round keys made. -/
theorem test_schedule_128_zero : ((keyExpansion (zeroKey 16)).drop 4).take 6 =
      [0x62636363#32, 0x62636363#32, 0x62636363#32, 0x62636363#32, 0x9B9898C9#32, 0xF9FBFBAA#32] ∧
    lastRoundKey (zeroKey 16) = [0xB4EF5BCB#32, 0x3E92E211#32, 0x23E951CF#32, 0x6F8F188E#32] := by decide +kernel
/-- V23d. -/
theorem test_schedule_192 : lastRoundKey (countingKey 24) =
    [0xA4970A33#32, 0x1A78DC09#32, 0xC418C271#32, 0xE3A41D5D#32] := by decide +kernel
/-- V23e. -/
theorem test_schedule_256 : lastRoundKey (countingKey 32) =
    [0x24FC79CC#32, 0xBF0979E9#32, 0x371AC23C#32, 0x6D68DE36#32] := by decide +kernel
/-- V23b: the midpoint step. -/
theorem test_schedule_midpoint : (keyExpansion (zeroKey 32)).getD 12 0 = 0xAAFBFBFB#32 := by decide +kernel
/-- V23f. -/
theorem test_schedule_128_other : lastRoundKey [0x2B, 0x7E, 0x15, 0x16, 0x28, 0xAE, 0xD2, 0xA6, 0xAB, 0xF7, 0x15, 0x88,
    0x09, 0xCF, 0x4F, 0x3C] = [0xD014F9A8#32, 0xC9EE2589#32, 0xE13F0CC8#32, 0xB6630CA6#32] := by decide +kernel
/-- R80: what KEYEXP 16 leaves after reset. -/
theorem test_exec_keyexp_16 : (next? (exec (.keyexp 16) (State.resetWith 2))).map (fun t =>
    (t.res, t.statusWord, t.ctx.map (fun slot => (slot.valid, slot.nr)))) =
    some (0x00000000#32, 0x00000000#32, [(true, 10), (false, 0)]) := by decide +kernel
/-- R80, V20: the words the slot gets, and the zero past them. -/
theorem test_exec_keyexp_16_words : (next? (exec (.keyexp 16) (State.resetWith 2))).map (fun t =>
    t.ctx.map (fun slot => [slot.word 4, slot.word 43, slot.word 44])) =
    some [[0x62636363#32, 0x6F8F188E#32, 0x00000000#32], [0, 0, 0]] := by decide +kernel
/-- V30, V31: the length is checked before the table. -/
theorem test_exec_keyexp_errors :
    (next? (exec (.keyexp 17) { oneLive with ctx := [liveSlot] })).map (·.statusWord) = some 0x00000001#32 ∧
    (next? (exec (.keyexp 24) { oneLive with ctx := [liveSlot] })).map (·.statusWord) = some 0x00000004#32 := by
  decide +kernel

/-! ### The steps of a round -/

/-- V16. -/
theorem test_shiftRows : shiftRows (blk 0x000102030405060708090a0b0c0d0e0f) = blk 0x00050a0f04090e03080d02070c01060b ∧
    invShiftRows (blk 0x000102030405060708090a0b0c0d0e0f) = blk 0x000d0a0704010e0b0805020f0c090603 := by decide +kernel
/-- V17, four columns at once. -/
theorem test_mixColumns : mixColumns (blk 0xdb135345f20a225c2d26314cd4d4d4d5) = blk 0x8e4da1bc9fdc589d4d7ebdf8d5d5d7d6 ∧
    invMixColumns (blk 0xdb135345f20a225c2d26314cd4d4d4d5) = blk 0x32a41d55aec36982a05050d6ddd9dfda := by decide +kernel
/-- V18. -/
theorem test_addRoundKey : addRoundKey (blk 0x00112233445566778899aabbccddeeff)
    (fun j => (keyExpansion (countingKey 16)).getD j 0) 0 = blk 0x00102030405060708090a0b0c0d0e0f0 := by decide +kernel
/-- V24, round 1: sub, shift, mix. -/
theorem test_round_1 : subBytes (blk 0x00102030405060708090a0b0c0d0e0f0) = blk 0x63cab7040953d051cd60e0e7ba70e18c ∧
    fullRound (fun j => (keyExpansion (countingKey 16)).getD j 0) (blk 0x00102030405060708090a0b0c0d0e0f0) 1 =
      blk 0x89d810e8855ace682d1843d8cb128fe4 := by decide +kernel

/-! ### ENC and DEC -/

/-- V5. -/
theorem test_encrypt_192 : encryptWith (countingKey 24) (blk 0x00112233445566778899aabbccddeeff) =
    blk 0xdda97ca4864cdfe06eaf70a0ec0d7191 := by decide +kernel
/-- V8. -/
theorem test_decrypt_256 : decryptWith (countingKey 32) (blk 0x00112233445566778899aabbccddeeff) =
    blk 0xeab487e68ec92db4ac288a24757b0262 := by decide +kernel
/-- V1, the source's known-answer vector, as one command. -/
theorem test_exec_enc : (next? (exec (.enc 0) (holding (zeroKey 16)))).map (fun t => (t.dout, t.statusWord)) =
    some (blk 0x66e94bd4ef8a2c3b884cfa59ca342b2e, 0x00000000#32) := by decide +kernel
/-- V33: ENC of a handle past the table. -/
theorem test_exec_enc_misuse : (next? (exec (.enc 2) oneLive)).map (fun t => (t.dout, t.statusWord)) =
    some (blk 0, 0x00000013#32) := by decide +kernel
/-- V8, as one command. -/
theorem test_exec_dec : (next? (exec (.dec 0) (holding (zeroKey 16)))).map (fun t => (t.dout, t.statusWord)) =
    some (blk 0x140f0f1011b5223d79587717ffd9ec3a, 0x00000000#32) := by decide +kernel
/-- V33: DEC of a free slot. -/
theorem test_exec_dec_misuse : (next? (exec (.dec 1) oneLive)).map (·.statusWord) = some 0x00000013#32 := by
  decide +kernel
/-- R106: slot 0 is freed and cleared. -/
theorem test_exec_release : (next? (exec (.release 0) oneLive)).map (fun t => (t.ctx, t.statusWord)) =
    some ([Slot.free, Slot.free], 0x00000000#32) := by decide +kernel
/-- V33: double release. -/
theorem test_exec_release_misuse : (next? (exec (.release 1) oneLive)).map (fun t => (t.ctx, t.statusWord)) =
    some ([liveSlot, Slot.free], 0x00000013#32) := by decide +kernel

/-! ### Steps: accesses, reset, command words (V37, V25) -/

theorem test_step_write_din : (next? (step (coming 1 (.access 0 (.write 4 0x30 0x00112233#32))))).map
    (fun t => (t.din, t.pending)) = some (blk 0x00112233000000000000000000000000, []) := by decide +kernel
theorem test_step_write_key : (next? (step (coming 1 (.access 0 (.write 4 0x2C 0x01020304#32))))).map
    (fun t => t.key.toList.drop 27) = some [0x00, 0x01, 0x02, 0x03, 0x04] := by decide +kernel
theorem test_step_read_dout : (next? (step { coming 1 (.access 7 (.read 4 0x44)) with
    dout := blk 0x66e94bd4ef8a2c3b884cfa59ca342b2e })).map (·.responses) = some [⟨7, 0xEF8A2C3B#32⟩] := by decide +kernel
theorem test_step_read_write_only : (next? (step { coming 1 (.access 0 (.read 4 0x30)) with
    din := blk 0xffffffffffffffffffffffffffffffff })).map (·.responses) = some [⟨0, 0x00000000#32⟩] := by decide +kernel
theorem test_step_write_status_ignored :
    next? (step (coming 1 (.access 0 (.write 4 0x04 0x1F#32)))) = some (State.resetWith 1) := by decide +kernel
theorem test_step_refusals :
    refusedAs (.accessWidth 1) (step (coming 1 (.access 0 (.write 1 0x31 0xFF#32)))) = true ∧
    refusedAs (.accessWidth 2) (step (coming 1 (.access 0 (.read 2 0x04)))) = true ∧
    refusedAs (.accessMisaligned 2) (step (coming 1 (.access 0 (.read 4 0x02)))) = true ∧
    refusedAs (.accessOutside 0x100) (step (coming 1 (.access 0 (.read 4 0x100)))) = true ∧
    refusedAs (.accessBurst 4 0x40) (step (coming 1 (.access 0 (.burst 4 0x40)))) = true := by decide
theorem test_step_illegal_word : (next? (step (coming 1 (cmdWrite 0 0x00010002#32)))).map (·.statusWord) =
    some 0x00000005#32 := by decide +kernel
theorem test_step_reset : next? (step { oneLive with misuse := true, err := 3, res := 5, pending := [.reset] }) =
    some (State.resetWith 2) := by decide +kernel
theorem test_step_idle : next? (step oneLive) = some oneLive := by decide +kernel
/-- A command word placed for the next step is run by it: SBOX 0x53, then GFMUL 0x57, 0x83. -/
theorem test_step_withFetchWord :
    (next? (step (State.reset.withFetchWord 32 0x00005305))).map (·.res) = some 0x000000ED#32 ∧
    (next? (step (State.reset.withFetchWord 32 0x00835707))).map (·.res) = some 0x000000C1#32 := by decide +kernel
/-- R54: WRKEY pads the last word with zero bytes in its low bits. -/
theorem test_wrkey_pads : wrkey [0x01, 0x02, 0x03, 0x04, 0x05] =
    [.write 4 0x10 0x01020304#32, .write 4 0x14 0x05000000#32] := by decide +kernel
/-- A handle past 255 makes no command (R53), so a call with one is no access (log 23). -/
theorem test_calls_past_255 : (Call.destroy 256).accesses = [] ∧ (Call.encrypt (2 ^ 24) (blk 0)).accesses = [] ∧
    (Call.destroy 255).accesses = [.write 4 0x00 0x0000FF04#32, .read 4 0x04] := by decide +kernel
/-- R31, R32: an address as the requesters see it. -/
theorem test_offsetOf : Config.offsetOf 0x4000 0x4008 = some 8 ∧ Config.offsetOf 0x4000 0x4100 = none ∧
    Config.offsetOf 0x4000 0x3FFC = none := by decide

/-! ### Witnesses: a concrete state and operands that meet every hypothesis of the statement named -/

/-- Two slots, the first holding the context of a zero key, the second free. -/
def heldOne : State := { State.resetWith 2 with ctx := [newContext (zeroKey 16), Slot.free] }

/-- Is the outcome a next state? -/
def goesOn (o : Host.Outcome State Fault Refusal) : Bool := (next? o).isSome

theorem live_oneLive : Live oneLive 0 := ⟨liveSlot, rfl, rfl⟩
theorem lowestFree_oneLive : LowestFree oneLive 1 :=
  ⟨⟨Slot.free, rfl, rfl⟩, fun j hj => by obtain rfl : j = 0 := by omega
                                         exact live_oneLive⟩
theorem lowestFree_heldOne : LowestFree heldOne 1 :=
  ⟨⟨Slot.free, rfl, rfl⟩, fun j hj => by obtain rfl : j = 0 := by omega
                                         exact ⟨_, rfl, rfl⟩⟩
theorem full_one : Full { oneLive with ctx := [liveSlot] } := by
  intro slot h
  obtain rfl : slot = liveSlot := by simpa using h
  rfl
theorem inv_heldOne : heldOne.Inv where
  nctx := by decide
  live := by
    intro slot h hv
    rcases List.mem_cons.mp h with rfl | h
    · exact ⟨zeroKey 16, .inl rfl, rfl⟩
    · obtain rfl : slot = Slot.free := by simpa using h
      exact absurd hv (by decide)
  free := by
    intro slot h hv
    rcases List.mem_cons.mp h with rfl | h
    · exact absurd hv (by simp [newContext])
    · simpa using h
  res := by decide
  err := by decide
  misuse := by decide

theorem inv_heldOne_setPending (es : List Event) : (heldOne.setPending es).Inv :=
  ⟨inv_heldOne.nctx, inv_heldOne.live, inv_heldOne.free, inv_heldOne.res, inv_heldOne.err, inv_heldOne.misuse⟩

theorem witness_DecodeAndEncodeAreInverse :
    (Instr.gfmul 0xFF 0xFF).wellFormed = true ∧ (Instr.release 255).wellFormed = true ∧
    decode 0x0000FF01#32 = .ok (.keyexp 255) ∧ encode (.keyexp 255) = encode (.keyexp 255) := by decide
/-- One word for each clause, at the ends of its ranges. -/
theorem witness_DecodeIsStrictAndTotal :
    (0x00000010#32).toNat / 2 ^ 4 % 16 = 1 ∧ (0xFF000007#32).toNat / 2 ^ 24 = 255 ∧
    (0x00000000#32).toNat % 16 = 0 ∧ (0x00000008#32).toNat % 16 = 8 ∧ (0x0000000F#32).toNat % 16 = 15 ∧
    (0x00010006#32).toNat % 16 = 6 ∧ (0x00010006#32).toNat / 2 ^ 16 % 256 = 1 ∧
    (0x00FFFF07#32).toNat / 2 ^ 4 % 16 = 0 ∧ (0x00FFFF07#32).toNat / 2 ^ 24 = 0 ∧ (0x00FFFF07#32).toNat % 16 = 7 ∧
    (∀ op ∈ [1, 2, 3, 4, 5, 6], let c := (BitVec.ofNat 32 (0xFF00 + op)).toNat
      c % 16 = op ∧ c / 2 ^ 4 % 16 = 0 ∧ c / 2 ^ 16 % 256 = 0 ∧ c / 2 ^ 24 = 0) := by decide
theorem witness_OpcodeRowsAreSelectedByMaskAndMatch : (⟨"GFMUL", 0xFF0000FF#32, 0x00000007#32⟩ : OpcodeRow) ∈ opcodeTable := by
  decide
theorem witness_AssemblerAcceptsOperandsUpTo255 : assemble "ENC" [255] = some (.enc 255) ∧
    assemble "GFMUL" [255, 255] = some (.gfmul 255 255) ∧ (Instr.enc 255).wellFormed = true := by decide
theorem witness_StepRunsTheDecodedCommand :
    (coming 1 (cmdWrite 7 0x00005305#32)).pending = [.access 7 (.write 4 0x00 0x00005305#32)] ∧
    decode 0x00005305#32 = .ok (.sbox 0x53) ∧ (Instr.sbox 0x53).wellFormed = true ∧
    encode (.sbox 0x53) = 0x00005305#32 := by decide
theorem witness_IllegalWordRaisesIllegalCommand :
    (coming 1 (cmdWrite 7 0#32)).pending = [.access 7 (.write 4 0x00 0#32)] ∧ IsIllegal 0#32 ∧
    IsIllegal 0x00010002#32 ∧ IsIllegal 0xFFFFFFFF#32 :=
  ⟨rfl, ⟨.reservedOpcode, by decide⟩, ⟨.operandB, by decide⟩, ⟨.reservedField, by decide⟩⟩
/-- Both sides of the border are met: 0xFC is served, 0x100 is not. -/
theorem witness_OnlyAlignedWordAccessesAreServed :
    (coming 1 (.access 0 (.read 4 0xFC))).pending = [.access 0 (.read 4 0xFC)] ∧
    goesOn (step (coming 1 (.access 0 (.read 4 0xFC)))) = true ∧
    goesOn (step (coming 1 (.access 0 (.read 4 0x100)))) = false ∧
    goesOn (step (coming 1 (.access 0 (.write 4 0x00 0#32)))) = true := by decide +kernel
/-- Offsets for each clause, at the ends of its range. -/
theorem witness_RegisterReadsFollowTheMap :
    ∀ off ∈ [0x04, 0x08, 0x40, 0x4C, 0x00, 0x0C, 0x10, 0x3C, 0x50, 0xFC],
      (coming 1 (.access 0 (.read 4 off))).pending = [.access 0 (.read 4 off)] ∧ off % 4 = 0 ∧ off ≤ 0xFC := by decide
theorem witness_ReservedOffsetsHoldNothing :
    ∀ off ∈ [0x0C, 0x50, 0xFC], off % 4 = 0 ∧ (off = 0x0C ∨ (0x50 ≤ off ∧ off ≤ 0xFC)) ∧
      (coming 1 (.access 0 (.read 4 off))).pending = [.access 0 (.read 4 off)] ∧
      (coming 1 (.access 0 (.write 4 off 1#32))).pending = [.access 0 (.write 4 off 1#32)] := by decide
theorem witness_BufferRegistersAreBigEndian :
    (∀ j ∈ [0, 3], (coming 1 (.access 0 (.write 4 (0x30 + 4 * j) 1#32))).pending =
      [.access 0 (.write 4 (0x30 + 4 * j) 1#32)]) ∧
    (∀ j ∈ [0, 7], (coming 1 (.access 0 (.write 4 (0x10 + 4 * j) 1#32))).pending =
      [.access 0 (.write 4 (0x10 + 4 * j) 1#32)]) ∧
    (∀ j ∈ [0, 3], (coming 1 (.access 0 (.read 4 (0x40 + 4 * j)))).pending = [.access 0 (.read 4 (0x40 + 4 * j))] ∧
      ∀ k ∈ [0, 1, 2, 3], (coming 1 (.access 0 (.read 4 (0x40 + 4 * j)))).dout[4 * j + k]? = some 0x00#8) := by
  decide +kernel
theorem witness_RegisterWritesHaveNoFurtherEffect :
    (∀ off ∈ [0x04, 0x08, 0x40, 0x4C], off % 4 = 0 ∧ (off = 0x04 ∨ off = 0x08 ∨ (0x40 ≤ off ∧ off ≤ 0x4C)) ∧
      (coming 1 (.access 0 (.write 4 off 1#32))).pending = [.access 0 (.write 4 off 1#32)]) ∧
    ∀ off ∈ [0x10, 0x2C, 0x30, 0x3C], off % 4 = 0 ∧ 0x10 ≤ off ∧ off ≤ 0x3C ∧
      goesOn (step ((State.resetWith 1).setPending
        [.access 0 (.write 4 off 1#32), .access 0 (.write 4 off 1#32)])) = true := by decide +kernel
theorem witness_KeyAndInputCannotBeReadBack :
    (coming 1 (.access 0 (.read 4 0x10))).pending = [.access 0 (.read 4 0x10)] ∧
    (coming 1 (.access 0 (.read 2 0x10))).pending = [.access 0 (.read 2 0x10)] := by decide
theorem witness_EventsTakeEffectInOrder : (State.resetWith 1).pending = [] ∧
    (coming 1 (.access 0 (.read 4 0x04))).pending = [.access 0 (.read 4 0x04)] ∧
    goesOn (step (coming 1 (.access 0 (.read 4 0x04)))) = true ∧ goesOn (step (coming 1 .reset)) = true := by
  decide +kernel
/-- A marked state that reset unmarks, and a live slot that RELEASE frees. -/
theorem witness_ResetEventClearsTheBlock :
    (coming 1 .reset).pending = [.reset] ∧
    (next? (step { coming 1 .reset with misuse := true })).map (·.misuse) = some false ∧ Live oneLive 0 ∧
    (next? (step (oneLive.setPending [cmdWrite 0 0x00000004#32]))).map (fun t => t.ctx.map (·.valid)) =
      some [false, false] :=
  ⟨by decide, by decide +kernel, live_oneLive, by decide +kernel⟩
theorem witness_GfmulFieldLaws : gfmul 0x00 0x57 = 0x00 ∧ (0x01 : Byte) ≠ 0x00 ∧ gfmul 0x01 0x01 = 0x01 := by
  decide +kernel
theorem witness_SboxIsTheClosedForm : (0x53 : Byte) ≠ 0 ∧ gfmul 0x53 0xCA = 1 := by decide +kernel
theorem witness_InvsboxInvertsSbox : sboxAt 0x00 = 0x63 ∧ sboxAt 0x52 = 0x00 := by decide +kernel
theorem witness_RoundConstantsArePowersOfX : 1 ≤ 1 ∧ 9 < 10 ∧ 3 < 4 := by decide
/-- Each clause of the recurrence has an index, for the lengths that reach it. -/
theorem witness_KeyExpansionRecurrence :
    (∀ klen ∈ [16, 24, 32], validKeyLength (zeroKey klen).length ∧ (zeroKey klen).length = klen) ∧
    8 ≤ 8 ∧ 59 < 4 * (8 + 6 + 1) ∧ 8 % 8 = 0 ∧ 56 % 8 = 0 ∧ 12 % 8 = 4 ∧ 59 % 8 ≠ 0 ∧ ¬ 59 % 8 = 4 ∧
    4 % 4 = 0 ∧ 43 % 4 ≠ 0 ∧ 43 < 4 * (4 + 6 + 1) := by decide
theorem witness_KeyexpCommand : (17 ≠ 16 ∧ 17 ≠ 24 ∧ 17 ≠ 32) ∧ validKeyLength 24 ∧
    Full { oneLive with ctx := [liveSlot] } ∧ LowestFree oneLive 1 :=
  ⟨by decide, by decide, full_one, lowestFree_oneLive⟩
theorem witness_SameKeyGivesSameContext : ∃ t u, validKeyLength 16 ∧ LowestFree (State.resetWith 2) 0 ∧
    exec (.keyexp 16) (State.resetWith 2) = .next t ∧ LowestFree t 1 ∧ exec (.keyexp 16) t = .next u :=
  ⟨_, _, .inl rfl, ⟨⟨Slot.free, rfl, rfl⟩, fun _ h => absurd h (Nat.not_lt_zero _)⟩, rfl,
    ⟨⟨Slot.free, rfl, rfl⟩, fun j hj => by obtain rfl : j = 0 := by omega
                                           exact ⟨_, rfl, rfl⟩⟩, rfl⟩
theorem witness_ForwardStepsByteByByte : 3 < 4 ∧
    ∀ c ∈ [0, 3], ∀ r ∈ [0, 1, 2, 3], (blk 0)[4 * c + r]? = some 0x00#8 := by decide +kernel
theorem witness_InverseStepsUndoForwardSteps : 3 < 4 ∧
    ∀ c ∈ [0, 3], ∀ r ∈ [0, 1, 2, 3], (blk 5)[4 * c + r]? = some (if r + 4 * c = 15 then 0x05#8 else 0x00#8) := by
  decide +kernel
/-- Also for InvCipherIsTheSequenceOfRounds and MirroredInverseCipherIsTheSame. -/
theorem witness_CipherIsTheSequenceOfRounds : 1 ≤ 1 ∧ 1 ≤ 14 := by decide
/-- For EncCommand, DecCommand and ReleaseCommand: the three kinds of handle, past the table, free, live. -/
theorem witness_EncDecReleaseCommands : oneLive.ctx.length ≤ 2 ∧
    (∃ slot, oneLive.ctx[1]? = some slot ∧ slot.valid = false) ∧
    oneLive.ctx[0]? = some liveSlot ∧ liveSlot.valid = true :=
  ⟨by decide, ⟨Slot.free, rfl, rfl⟩, rfl, rfl⟩
theorem witness_ReleaseCommand : Live { oneLive with ctx := [liveSlot, liveSlot] } 0 ∧
    Live { oneLive with ctx := [liveSlot, liveSlot] } 1 := ⟨⟨liveSlot, rfl, rfl⟩, ⟨liveSlot, rfl, rfl⟩⟩
theorem witness_DecryptUndoesEncrypt : ({ oneLive with ctx := [liveSlot, liveSlot] } : State).ctx[0]? = some liveSlot ∧
    ({ oneLive with ctx := [liveSlot, liveSlot] } : State).ctx[1]? = some liveSlot ∧ liveSlot.valid = true :=
  ⟨rfl, rfl, rfl⟩
theorem witness_TransformsAreTotalOnLiveHandles : oneLive.ctx[0]? = some liveSlot ∧ liveSlot.valid = true ∧
    (Instr.dec 0 = .enc 0 ∨ Instr.dec 0 = .dec 0) := ⟨rfl, rfl, .inr rfl⟩
theorem witness_TransformsDependOnInputAndSlotOnly : liveSlot.valid = true ∧ oneLive.ctx[0]? = some liveSlot ∧
    ({ oneLive with ctx := [Slot.free, liveSlot] } : State).ctx[1]? = some liveSlot ∧
    oneLive.din = ({ oneLive with ctx := [Slot.free, liveSlot] } : State).din := ⟨rfl, rfl, rfl, rfl⟩
theorem witness_RepeatedTransformsAgree :
    (∀ i ∈ [Instr.dec 0, .sbox 1], i.mnemonic ≠ "KEYEXP" ∧ i.mnemonic ≠ "RELEASE") ∧ Live oneLive 0 :=
  ⟨by decide, live_oneLive⟩
theorem witness_UseAfterReleaseIsMisuse : (next? (exec (.release 0) oneLive)).map (·.err) = some 0 := by decide +kernel
theorem witness_ReleasedHandleComesBack : (∀ j, j ≤ 0 → Live oneLive j) ∧ validKeyLength 32 :=
  ⟨fun j hj => by obtain rfl : j = 0 := by omega
                  exact live_oneLive, by decide⟩
theorem witness_CreateAndDestroyRestoreTheTable : heldOne.Inv ∧ validKeyLength 16 ∧ LowestFree heldOne 1 :=
  ⟨inv_heldOne, by decide, lowestFree_heldOne⟩
/-- A step that makes slot 1 live, and one that frees slot 0. -/
theorem witness_SlotLifecycle : 1 < oneLive.ctx.length ∧
    (next? (step (oneLive.setPending [cmdWrite 0 0x00001001#32]))).map (fun t => t.ctx.map (·.valid)) =
      some [true, true] ∧
    (next? (step (oneLive.setPending [cmdWrite 0 0x00000004#32]))).map (fun t => t.ctx.map (·.valid)) =
      some [false, false] := by decide +kernel
/-- Both clauses: a KEYEXP beside the live slot, and the RELEASE of it. -/
theorem witness_LiveSlotsAreImmutable : goesOn (exec (.keyexp 16) oneLive) = true ∧
    goesOn (exec (.release 0) oneLive) = true ∧ Instr.keyexp 16 ≠ .release 0 ∧
    oneLive.ctx[0]? = some liveSlot ∧ liveSlot.valid = true :=
  ⟨by decide +kernel, by decide +kernel, by decide, rfl, rfl⟩
/-- Two states that differ in a slot's round count only, at an ENC and at a read. -/
theorem witness_SlotContentIsHidden :
    covered oneLive = covered { oneLive with ctx := [{ liveSlot with nr := 12 }, Slot.free] } ∧
    covered (oneLive.setPending [cmdWrite 0 0x00000002#32]) =
      covered ({ oneLive with ctx := [{ liveSlot with nr := 12 }, Slot.free] }.setPending [cmdWrite 0 0x00000002#32]) :=
  ⟨rfl, rfl⟩
/-- A word for each code: 1, 3, 4, 5, and the state's pending list. -/
theorem witness_ErrorCodesAndTheirCauses :
    (oneLive.setPending [cmdWrite 0 0x00001101#32]).pending = [.access 0 (.write 4 0x00 0x00001101#32)] ∧
    (next? (step (oneLive.setPending [cmdWrite 0 0x00001101#32]))).map (·.err) = some 1 ∧
    (next? (step (oneLive.setPending [cmdWrite 0 0x00000104#32]))).map (·.err) = some 3 ∧
    (next? (step ({ oneLive with ctx := [liveSlot] }.setPending [cmdWrite 0 0x00001001#32]))).map (·.err) = some 4 ∧
    (next? (step (oneLive.setPending [cmdWrite 0 0x00000000#32]))).map (·.err) = some 5 := by decide +kernel
theorem witness_FailedCommandsChangeOnlyStatus : (next? (exec (.keyexp 17) oneLive)).map (·.err) = some 1 ∧
    (next? (exec (.dec 1) oneLive)).map (·.err) = some 3 := by decide +kernel
theorem witness_CommandFrames : (Instr.sbox 0).mnemonic ≠ "ENC" ∧ (Instr.sbox 0).mnemonic ≠ "DEC" ∧
    (Instr.sbox 0).mnemonic ≠ "KEYEXP" ∧ (Instr.sbox 0).mnemonic ≠ "RELEASE" ∧ (Instr.dec 0).mnemonic = "DEC" ∧
    ¬ validKeyLength 17 ∧ Full { oneLive with ctx := [liveSlot] } ∧ LowestFree oneLive 1 ∧ ¬ Live oneLive 1 :=
  ⟨by decide, by decide, by decide, by decide, by decide, by decide, full_one, lowestFree_oneLive, by
    rintro ⟨slot, h, hv⟩
    obtain rfl : Slot.free = slot := by simpa [oneLive] using h
    exact absurd hv (by decide)⟩
theorem witness_StepKeepsTheInvariant : (heldOne.setPending [cmdWrite 0 0x00001001#32]).Inv ∧
    goesOn (step (heldOne.setPending [cmdWrite 0 0x00001001#32])) = true :=
  ⟨inv_heldOne_setPending _, by decide +kernel⟩
theorem witness_ResetMeetsTheInvariant : Config.legalNctx 1 ∧ Config.legalNctx 256 := by decide
/-- The cases of the holdings: a KEYEXP that adds one, a RELEASE that ends one, a reset that ends all. -/
theorem witness_DisciplinedStepsKeepHeldHandlesLive :
    (∀ p ∈ [((7, 0) : Holding)], Live heldOne p.2) ∧ heldOne.misuse = false ∧
    ∀ e ∈ [cmdWrite 7 0x00001001#32, cmdWrite 7 0x00000004#32, .reset],
      (heldOne.setPending [e]).pending = [e] ∧ (heldOne.setPending [e]).Inv ∧ usesHeld [(7, 0)] e = true ∧
      goesOn (step (heldOne.setPending [e])) = true := by
  refine ⟨fun p hp => ?_, rfl, fun e he => ⟨rfl, inv_heldOne_setPending _, ?_, ?_⟩⟩
  · obtain rfl : p = (7, 0) := by simpa using hp
    exact ⟨_, rfl, rfl⟩
  · revert e; decide +kernel
  · revert e; decide +kernel
/-- Requester 7 holds slot 0: a KEYEXP refused for its length, a KEYEXP that makes slot 1, two RELEASEs. -/
theorem witness_DisciplinedRunsAreClean :
    let s := heldOne.setPending
      [cmdWrite 7 0x00001101#32, cmdWrite 7 0x00001001#32, cmdWrite 7 0x00000104#32, cmdWrite 7 0x00000004#32]
    s.Inv ∧ (∀ p ∈ [((7, 0) : Holding)], Live s p.2) ∧ s.misuse = false ∧ disciplined 4 [(7, 0)] s = true ∧
      disciplined 4 [] s = false := by
  refine ⟨inv_heldOne_setPending _, fun p hp => ?_, rfl, by decide +kernel, by decide +kernel⟩
  obtain rfl : p = (7, 0) := by simpa using hp
  exact ⟨_, rfl, rfl⟩
theorem witness_TransformCallsAnswerTheBlock : oneLive.ctx[0]? = some liveSlot ∧ liveSlot.valid = true ∧
    (oneLive.setPending ((Call.encrypt 0 (blk 1)).events 7)).pending = (Call.encrypt 0 (blk 1)).events 7 ++ [] ∧
    (oneLive.setPending ((Call.decrypt 0 (blk 1)).events 7)).pending = (Call.decrypt 0 (blk 1)).events 7 ++ [] :=
  ⟨rfl, rfl, (List.append_nil _).symm, (List.append_nil _).symm⟩
theorem witness_LifecycleCallsAnswerTheHandle : validKeyLength (countingKey 24).length ∧ LowestFree oneLive 1 ∧
    Live oneLive 0 ∧
    (oneLive.setPending ((Call.create (countingKey 24)).events 7)).pending =
      (Call.create (countingKey 24)).events 7 ++ [] ∧
    (oneLive.setPending ((Call.destroy 0).events 7)).pending = (Call.destroy 0).events 7 ++ [] :=
  ⟨by decide, lowestFree_oneLive, live_oneLive, (List.append_nil _).symm, (List.append_nil _).symm⟩
/-- CREATE, then DESTROY, as a run: STATUS, the handle, STATUS are answered. -/
theorem test_calls : Sys2Proof.Machine.State.pending (coming 1 .reset) = [.reset] ∧
    (next? (Sys2Proof.core.run 9 ((State.resetWith 1).setPending
      ((Call.create (zeroKey 16)).events 7 ++ (Call.destroy 0).events 7)))).map (fun t => (t.responses, t.ctx == [Slot.free]))
      = some ([⟨7, 0#32⟩, ⟨7, 0#32⟩, ⟨7, 0#32⟩], true) := by decide +kernel

end Sys2Proof.Tests
end

section
/-! PROOFS. The outcomes of a command and of an event as equations, and the round trip of the encoder: what the proofs
of the state family need beside the laws above. -/

namespace Sys2Proof.Machine

/-- `ExecResult` says exactly what `exec` answers: the converse of `exec_cases`. -/
theorem ExecResult.exec_eq {i : Instr} {s t : State} (h : ExecResult i s t) : exec i s = .next t := by
  cases h with
  | badLength hk => simp [exec, execKeyexp, hk]
  | noFree hk full => simp [exec, execKeyexp, hk, full]
  | created hk free => simp [exec, execKeyexp, hk, free]
  | badContext hi none =>
    obtain rfl | rfl | rfl := hi
    · simp [exec, execEnc, none]
    · simp [exec, execDec, none]
    · simp [exec, execRelease, none]
  | encrypted live => simp [exec, execEnc, live]
  | decrypted live => simp [exec, execDec, live]
  | released live => simp [exec, execRelease, live]
  | byteOut hi => obtain ⟨_, rfl, rfl⟩ | ⟨_, rfl, rfl⟩ | ⟨_, _, rfl, rfl⟩ := hi <;> rfl

/-- An access without a meaning is refused in every state, for the same reason (R38). -/
theorem happen_refused {a : Access} {ref : Refusal} (h : a.refusal? = some ref) (s : State) (r : Nat) :
    s.happen (.access r a) = .refused ref := by
  simp [State.happen, State.perform, h]

/-- An access with a meaning is performed (R33). -/
theorem happen_served {a : Access} (h : a.refusal? = none) (s : State) (r : Nat) :
    s.happen (.access r a) = s.regAccess r a := by
  simp [State.happen, State.perform, h]

/-- An aligned 4-byte read inside the register space has a meaning (R33). -/
theorem Access.refusal?_read {off : Nat} (aligned : off % 4 = 0) (inside : off ≤ 0xFC) :
    (Access.read 4 off).refusal? = none :=
  Access.refusal?_eq_none.mpr ⟨off, aligned, inside, .inl rfl⟩

/-- An aligned 4-byte write inside the register space has a meaning (R33). -/
theorem Access.refusal?_write {off : Nat} (aligned : off % 4 = 0) (inside : off ≤ 0xFC) (v : Word) :
    (Access.write 4 off v).refusal? = none :=
  Access.refusal?_eq_none.mpr ⟨off, aligned, inside, .inr ⟨v, rfl⟩⟩

/-- What a read returns is made of STATUS, RES and DOUT (R34, R39). -/
theorem State.regRead_congr {s s' : State} (err : s.err = s'.err) (misuse : s.misuse = s'.misuse)
    (res : s.res = s'.res) (dout : s.dout = s'.dout) (off : Nat) : s.regRead off = s'.regRead off := by
  simp [State.regRead, State.statusWord, err, misuse, res, dout]

/-- `EventResult` says exactly how an event goes on: the converse of `happen_result`. -/
theorem EventResult.happen_eq {e : Event} {s t : State} (h : EventResult e s t) : s.happen e = .next t := by
  cases h with
  | reset => rfl
  | read aligned inside => rw [happen_served (Access.refusal?_read aligned inside)]; rfl
  | store aligned inside notCmd =>
    rw [happen_served (Access.refusal?_write aligned inside _)]
    simp [State.regAccess, notCmd]
  | command legal ran =>
    rw [happen_served (Access.refusal?_write rfl (by omega) _)]
    simp [State.regAccess, execWord, legal, ran]
  | illegal illegal =>
    rw [happen_served (Access.refusal?_write rfl (by omega) _)]
    simp [State.regAccess, execWord, illegal]

end Sys2Proof.Machine

namespace Sys2Proof

/-- A word made of an opcode and two operand bytes decodes to the row of its opcode (R46, R47). -/
theorem decode_commandWord {op a b : Nat} (op_pos : 0 < op) (op_lt : op < 8) (ha : a ≤ 255) (hb : b ≤ 255)
    (onlyGfmul : op = 7 ∨ b = 0) :
    decode (commandWord op a b) = rowCommand op (BitVec.ofNat 8 a) (BitVec.ofNat 8 b) := by
  have hw := commandWord_toNat op a b (by omega) ha hb
  have hop : (fieldOP (commandWord op a b)).toNat = op := by rw [fieldOP_toNat]; omega
  have hA : fieldA (commandWord op a b) = BitVec.ofNat 8 a :=
    BitVec.eq_of_toNat_eq (by rw [fieldA_toNat, BitVec.toNat_ofNat]; omega)
  have hB : fieldB (commandWord op a b) = BitVec.ofNat 8 b :=
    BitVec.eq_of_toNat_eq (by rw [fieldB_toNat, BitVec.toNat_ofNat]; omega)
  rw [decode_fields (by rw [fieldZ0_toNat]; omega) (by rw [fieldZ1_toNat]; omega) (by omega) (by omega)
    (by rw [hop, fieldB_toNat]; omega), hop, hA, hB]

/-- The encoding of a well-formed command decodes to it (R58). -/
theorem decode_encode {i : Instr} (h : i.wellFormed = true) : decode (encode i) = .ok i := by
  cases i with
  | keyexp n | enc n | dec n | release n =>
    have hn : n ≤ 255 := by simpa [Instr.wellFormed] using h
    rw [encode, decode_commandWord (by omega) (by omega) hn (by omega) (.inr rfl)]
    simp [rowCommand, Nat.mod_eq_of_lt (show n < 256 by omega)]
  | sbox x | invsbox x =>
    rw [encode, decode_commandWord (by omega) (by omega) (by omega) (by omega) (.inr rfl)]
    simp [rowCommand]
  | gfmul a b =>
    rw [encode, decode_commandWord (by omega) (by omega) (by omega) (by omega) (.inl rfl)]
    simp [rowCommand]

end Sys2Proof
end

section
/-! PROOFS. The invariant: each named operation on the state keeps it, so every command and every event does
(R18, R20, R22, R113, R127). -/

namespace Sys2Proof.Machine

/-- What the invariant allows a slot to hold: a whole context, or the value of a free slot (R22, R106). -/
def Slot.Sound (slot : Slot) : Prop :=
  slot = Slot.free ∨ ∃ key : List Byte, validKeyLength key.length ∧ slot = newContext key

/-- The invariant's two clauses on the slots say that each slot is sound. -/
theorem Slot.sound_iff {slot : Slot} :
    slot.Sound ↔
      (slot.valid = true → ∃ key : List Byte, validKeyLength key.length ∧ slot = newContext key) ∧
        (slot.valid = false → slot = Slot.free) := by
  constructor
  · rintro (rfl | ⟨key, hk, rfl⟩)
    · simp
    · exact ⟨fun _ => ⟨key, hk, rfl⟩, by simp⟩
  · rintro ⟨live, free⟩
    cases hv : slot.valid with
    | false => exact .inl (free hv)
    | true => exact .inr (live hv)

theorem State.Inv.sound {s : State} (hs : s.Inv) : ∀ slot ∈ s.ctx, slot.Sound := fun slot hm =>
  Slot.sound_iff.mpr ⟨hs.live slot hm, hs.free slot hm⟩

/-- The invariant from sound slots and the clauses on RES and STATUS. -/
theorem State.Inv.of_sound {s : State} (nctx : Config.legalNctx s.ctx.length) (sound : ∀ slot ∈ s.ctx, slot.Sound)
    (res : s.res.toNat < 256) (err : s.err ∈ producedCodes) (misuse : s.err = 3 → s.misuse = true) : s.Inv where
  nctx := nctx
  live slot hm := (Slot.sound_iff.mp (sound slot hm)).1
  free slot hm := (Slot.sound_iff.mp (sound slot hm)).2
  res := res
  err := err
  misuse := misuse

/-- The invariant speaks of RES, STATUS and the context table only. -/
theorem State.Inv.of_fields_eq {s t : State} (hs : s.Inv) (ctx : t.ctx = s.ctx) (res : t.res = s.res)
    (err : t.err = s.err) (misuse : t.misuse = s.misuse) : t.Inv :=
  .of_sound (ctx ▸ hs.nctx) (ctx ▸ hs.sound) (res ▸ hs.res) (err ▸ hs.err) (err ▸ misuse ▸ hs.misuse)

theorem State.Inv.setPending {s : State} (hs : s.Inv) (es : List Event) : (s.setPending es).Inv :=
  hs.of_fields_eq rfl rfl rfl rfl

theorem State.Inv.respond {s : State} (hs : s.Inv) (r : Nat) (v : Word) : (s.respond r v).Inv :=
  hs.of_fields_eq rfl rfl rfl rfl

theorem State.Inv.setDout {s : State} (hs : s.Inv) (b : Block) : (s.setDout b).Inv :=
  hs.of_fields_eq rfl rfl rfl rfl

theorem State.Inv.regStore {s : State} (hs : s.Inv) (off : Nat) (v : Word) : (s.regStore off v).Inv :=
  hs.of_fields_eq (by simp) (by simp) (by simp) (by simp)

/-- Every error but `InvalidBlockLength`, which no command raises, leaves a produced code, and `InvalidContext` leaves
MISUSE set (R20, R113). -/
theorem State.Inv.raise {s : State} (hs : s.Inv) {e : Err} (he : e ≠ .invalidBlockLength) : (s.raise e).Inv := by
  have hcode : e.code ∈ producedCodes ∧ (e.code = 3 → misuseAfter s.misuse e = true) := by
    cases e <;> simp_all [Err.code, producedCodes, misuseAfter, Err.isMisuse]
  exact .of_sound hs.nctx hs.sound hs.res hcode.1 hcode.2

theorem State.Inv.done {s : State} (hs : s.Inv) : s.done.Inv :=
  .of_sound hs.nctx hs.sound hs.res (by simp [producedCodes]) (by simp)

theorem State.Inv.setRes {s : State} (hs : s.Inv) {v : Word} (hv : v.toNat < 256) : (s.setRes v).Inv :=
  .of_sound hs.nctx hs.sound hv hs.err hs.misuse

theorem State.Inv.setSlot {s : State} (hs : s.Inv) (h : Nat) {slot : Slot} (sound : slot.Sound) :
    (s.setSlot h slot).Inv :=
  .of_sound (by simpa using hs.nctx)
    (fun _ hm => (List.mem_or_eq_of_mem_set hm).elim (hs.sound _) (· ▸ sound)) hs.res hs.err hs.misuse

/-- A zero-extended byte fits RES[7:0] (R18). -/
theorem zext32_lt (b : Byte) : (zext32 b).toNat < 256 := by
  rw [zext32, BitVec.toNat_setWidth]; omega

theorem State.Inv.byteResult {s : State} (hs : s.Inv) (b : Byte) : (s.byteResult b).Inv :=
  (hs.setRes (zext32_lt b)).done

/-- KEYEXP reads a key of the length it names: every accepted length fits the key buffer (R15, R74). -/
theorem State.keyBytes_length (s : State) {klen : Nat} (h : validKeyLength klen) : (s.keyBytes klen).length = klen := by
  simp only [State.keyBytes, List.length_take, Vector.length_toList]; omega

theorem newContext_keyBytes_sound (s : State) {klen : Nat} (h : validKeyLength klen) :
    (newContext (s.keyBytes klen)).Sound :=
  .inr ⟨_, (s.keyBytes_length h).symm ▸ h, rfl⟩

/-- Every command keeps the invariant. -/
theorem ExecResult.inv {i : Instr} {s t : State} (h : ExecResult i s t) (hs : s.Inv) : t.Inv := by
  cases h with
  | badLength | noFree | badContext => exact hs.raise (by simp)
  | created hk => exact ((hs.setSlot _ (newContext_keyBytes_sound s hk)).setRes (zext32_lt _)).done
  | encrypted | decrypted => exact (hs.setDout _).done
  | released => exact (hs.setSlot _ (.inl rfl)).done
  | byteOut => exact hs.byteResult _

/-- The reset state meets the invariant, for every legal number of slots (R28). -/
theorem State.Inv.resetWith {n : Nat} (hn : Config.legalNctx n) : (State.resetWith n).Inv :=
  .of_sound (by simpa using hn) (fun _ hm => .inl (List.eq_of_mem_replicate hm)) (by simp) (by simp [producedCodes])
    (by simp)

/-- The reset event ends in the reset state of the same number of slots but for the requesters' side (R127). -/
theorem State.Inv.resetEvent {s : State} (hs : s.Inv) : s.resetEvent.Inv :=
  (State.Inv.resetWith hs.nctx).of_fields_eq rfl rfl rfl rfl

/-- Every event keeps the invariant. -/
theorem EventResult.inv {e : Event} {s t : State} (h : EventResult e s t) (hs : s.Inv) : t.Inv := by
  cases h with
  | reset => exact hs.resetEvent
  | read => exact hs.respond _ _
  | store => exact hs.regStore _ _
  | command _ ran => exact (exec_cases ran).inv hs
  | illegal => exact hs.raise (by simp)

/-- Settles O53: an idle step changes nothing, and every event keeps the invariant. -/
theorem stepKeepsTheInvariant : Obligations.StepKeepsTheInvariant := by
  intro s t hs h
  obtain ⟨-, rfl⟩ | ⟨e, rest, -, hr⟩ := step_cases h
  · exact hs
  · exact hr.inv (hs.setPending rest)

/-- Settles O52: the reset state of every legal number of slots meets the invariant, and 4 is one. -/
theorem resetMeetsTheInvariant : Obligations.ResetMeetsTheInvariant :=
  ⟨fun _ hn => .resetWith hn, .resetWith (by decide)⟩

end Sys2Proof.Machine
end

section
/-! PROOFS. Frames: what each command leaves as it was (R29), live slots among it (R23). -/

open Sys2Proof.Reference

namespace Sys2Proof.Machine

/-- Only ENC and DEC write DOUT (R17). -/
theorem ExecResult.dout_eq {i : Instr} {s t : State} (h : ExecResult i s t) (notEnc : i.mnemonic ≠ "ENC")
    (notDec : i.mnemonic ≠ "DEC") : t.dout = s.dout := by
  cases h with
  | encrypted => exact absurd rfl notEnc
  | decrypted => exact absurd rfl notDec
  | _ => simp

/-- ENC, DEC and RELEASE do not write RES (R18). -/
theorem ExecResult.res_eq {i : Instr} {s t : State} (h : ExecResult i s t)
    (hi : i.mnemonic = "ENC" ∨ i.mnemonic = "DEC" ∨ i.mnemonic = "RELEASE") : t.res = s.res := by
  cases h with
  | created => simp [Instr.mnemonic] at hi
  | byteOut hb =>
    obtain ⟨_, rfl, -⟩ | ⟨_, rfl, -⟩ | ⟨_, _, rfl, -⟩ := hb <;> simp [Instr.mnemonic] at hi
  | _ => simp

/-- Only KEYEXP and RELEASE write the context table (R29). -/
theorem ExecResult.ctx_eq {i : Instr} {s t : State} (h : ExecResult i s t) (notKeyexp : i.mnemonic ≠ "KEYEXP")
    (notRelease : i.mnemonic ≠ "RELEASE") : t.ctx = s.ctx := by
  cases h with
  | created => exact absurd rfl notKeyexp
  | released => exact absurd rfl notRelease
  | _ => simp

/-- Only a command with a handle can set MISUSE (R20, R113). -/
theorem ExecResult.misuse_eq {i : Instr} {s t : State} (h : ExecResult i s t) (notEnc : i.mnemonic ≠ "ENC")
    (notDec : i.mnemonic ≠ "DEC") (notRelease : i.mnemonic ≠ "RELEASE") : t.misuse = s.misuse := by
  cases h with
  | badLength | noFree => exact Bool.or_false _
  | badContext hi =>
    obtain rfl | rfl | rfl := hi
    · exact absurd rfl notEnc
    · exact absurd rfl notDec
    · exact absurd rfl notRelease
  | _ => simp

/-- A command writes at most one slot: KEYEXP the lowest free one, with a new context; RELEASE its live one. -/
theorem ExecResult.ctx_cases {i : Instr} {s t : State} (h : ExecResult i s t) :
    t.ctx = s.ctx ∨
      (∃ klen h, i = .keyexp klen ∧ validKeyLength klen ∧ LowestFree s h ∧
        t.ctx = s.ctx.set h (newContext (s.keyBytes klen))) ∨
      ∃ h, i = .release h ∧ Live s h ∧ t.ctx = s.ctx.set h Slot.free := by
  cases h with
  | created hk free => exact .inr (.inl ⟨_, _, rfl, hk, lowestFree?_eq_some.mp free, by simp⟩)
  | released live => exact .inr (.inr ⟨_, rfl, ⟨_, liveSlot?_eq_some.mp live⟩, by simp⟩)
  | _ => exact .inl (by simp)

/-- There is one lowest free slot. -/
theorem lowestFree_unique {s : State} {h h' : Nat} (hl : LowestFree s h) (hl' : LowestFree s h') : h = h' :=
  Option.some_injective _ ((lowestFree?_eq_some.mpr hl).symm.trans (lowestFree?_eq_some.mpr hl'))

/-- A live slot is not the lowest free one. -/
theorem lowestFree_ne {s : State} {h j : Nat} (hl : LowestFree s h) (hj : Live s j) : h ≠ j := by
  rintro rfl
  obtain ⟨⟨slot, hs, hv⟩, -⟩ := hl
  obtain ⟨slot', hs', hv'⟩ := hj
  simp_all

/-- KEYEXP without an accepted length or without a free slot writes neither the table nor RES (R80). -/
theorem ExecResult.keyexp_failed {klen : Nat} {s t : State} (h : ExecResult (.keyexp klen) s t)
    (failed : ¬ validKeyLength klen ∨ Full s) : t.ctx = s.ctx ∧ t.res = s.res := by
  cases h with
  | created hk free =>
    obtain hk' | full := failed
    · exact absurd hk hk'
    · simp [lowestFree?_eq_none.mpr full] at free
  | byteOut hi => simp at hi
  | _ => simp

/-- KEYEXP writes no slot but the lowest free one (R80). -/
theorem ExecResult.keyexp_slot_eq {klen h j : Nat} {s t : State} (hr : ExecResult (.keyexp klen) s t)
    (hl : LowestFree s h) (hj : j ≠ h) : t.ctx[j]? = s.ctx[j]? := by
  obtain hc | ⟨_, h', -, -, hl', hc⟩ | ⟨_, hi, -⟩ := hr.ctx_cases
  · rw [hc]
  · obtain rfl := lowestFree_unique hl hl'
    rw [hc, List.getElem?_set_ne hj.symm]
  · cases hi

/-- RELEASE of a slot that is not live leaves the table as it is (R106). -/
theorem ExecResult.release_failed {h : Nat} {s t : State} (hr : ExecResult (.release h) s t) (dead : ¬ Live s h) :
    t.ctx = s.ctx := by
  obtain hc | ⟨_, _, hi, -⟩ | ⟨_, hi, live, -⟩ := hr.ctx_cases
  · exact hc
  · cases hi
  · cases hi; exact absurd live dead

/-- RELEASE writes no slot but the one it names (R106). -/
theorem ExecResult.release_slot_eq {h j : Nat} {s t : State} (hr : ExecResult (.release h) s t) (hj : j ≠ h) :
    t.ctx[j]? = s.ctx[j]? := by
  obtain hc | ⟨_, _, hi, -⟩ | ⟨_, hi, -, hc⟩ := hr.ctx_cases
  · rw [hc]
  · cases hi
  · cases hi; rw [hc, List.getElem?_set_ne hj.symm]

/-- Settles O51: R29's frame, row by row. -/
theorem commandFrames : Obligations.CommandFrames := by
  intro i s
  obtain ⟨t, ht, hr⟩ := exec_result i s
  obtain ⟨pending, responses, key, din, nctx⟩ := hr.kept
  refine ⟨t, ht, key, din, pending, responses, nctx, hr.dout_eq, hr.res_eq, hr.ctx_eq, hr.misuse_eq, ?_, ?_⟩
  · rintro klen rfl
    exact ⟨hr.keyexp_failed, fun h hl j hj => hr.keyexp_slot_eq hl hj⟩
  · rintro h rfl
    exact ⟨hr.release_failed, fun j hj => hr.release_slot_eq hj⟩

/-- A live slot is the same live slot after every command but its own RELEASE (R23). -/
theorem ExecResult.live_slot_eq {i : Instr} {s t : State} {h : Nat} {slot : Slot} (hr : ExecResult i s t)
    (hs : s.ctx[h]? = some slot) (hv : slot.valid = true) (hi : i ≠ .release h) : t.ctx[h]? = some slot := by
  obtain hc | ⟨_, h', -, -, hl, hc⟩ | ⟨h', rfl, -, hc⟩ := hr.ctx_cases
  · rw [hc, hs]
  · rw [hc, List.getElem?_set_ne (lowestFree_ne hl ⟨slot, hs, hv⟩), hs]
  · have hne : h' ≠ h := fun he => hi (he ▸ rfl)
    rw [hc, List.getElem?_set_ne hne, hs]

/-- RELEASE of a live slot leaves the free slot there (R106). -/
theorem ExecResult.released_slot {s t : State} {h : Nat} {slot : Slot} (hr : ExecResult (.release h) s t)
    (hs : s.ctx[h]? = some slot) (hv : slot.valid = true) : t.ctx[h]? = some Slot.free := by
  have hlt : h < s.ctx.length := (List.getElem?_eq_some_iff.mp hs).1
  cases hr with
  | badContext hi none =>
    obtain rfl : h = _ := by simpa using hi
    simp [liveSlot?_eq_some.mpr ⟨hs, hv⟩] at none
  | released => simp [hlt]
  | byteOut hi => simp at hi

/-- Settles O47: a command writes the table in one slot at most, and KEYEXP's is not live. -/
theorem liveSlotsAreImmutable : Obligations.LiveSlotsAreImmutable := by
  intro i s t h slot hx hs hv
  have hr := exec_cases hx
  refine ⟨hr.live_slot_eq hs hv, ?_⟩
  rintro rfl
  exact hr.released_slot hs hv

/-- Commands other than KEYEXP and RELEASE run to an end and keep the context table and DIN. -/
theorem runCommands_keeps_ctx_din {is : List Instr}
    (his : ∀ i ∈ is, i.mnemonic ≠ "KEYEXP" ∧ i.mnemonic ≠ "RELEASE") (s : State) :
    ∃ t, runCommands is s = .next t ∧ t.ctx = s.ctx ∧ t.din = s.din := by
  induction is generalizing s with
  | nil => exact ⟨s, rfl, rfl, rfl⟩
  | cons i is ih =>
    obtain ⟨⟨notKeyexp, notRelease⟩, htail⟩ := List.forall_mem_cons.mp his
    obtain ⟨u, hu, hr⟩ := exec_result i s
    obtain ⟨-, -, -, din, -⟩ := hr.kept
    obtain ⟨t, ht, tctx, tdin⟩ := ih htail u
    refine ⟨t, ?_, tctx.trans (hr.ctx_eq notKeyexp notRelease), tdin.trans din⟩
    simp only [runCommands, hu, ht]

/-- Settles O41: the commands in between keep the slot and DIN, and ENC and DEC read nothing else. -/
theorem repeatedTransformsAgree : Obligations.RepeatedTransformsAgree := by
  rintro between s h hbetween ⟨slot, hslot⟩
  obtain ⟨t, ht, hctx, hdin⟩ := runCommands_keeps_ctx_din hbetween s
  have hs : s.liveSlot? h = some slot := liveSlot?_eq_some.mpr hslot
  have ht' : t.liveSlot? h = some slot := liveSlot?_eq_some.mpr (hctx ▸ hslot)
  refine ⟨t, ht, ⟨_, _, (ExecResult.encrypted hs).exec_eq, (ExecResult.encrypted ht').exec_eq, ?_⟩,
    _, _, (ExecResult.decrypted hs).exec_eq, (ExecResult.decrypted ht').exec_eq, ?_⟩
  all_goals simp [hdin]

end Sys2Proof.Machine
end

section
/-! PROOFS. The content of slots shows in DOUT only (R24): two states that agree but for it go on alike. -/

open Sys2Proof.Reference

namespace Sys2Proof.Machine

/-- The two states are the same but for DOUT and for what the slots hold beside their valid bits. -/
structure State.Alike (s s' : State) : Prop where
  key : s.key = s'.key
  din : s.din = s'.din
  res : s.res = s'.res
  err : s.err = s'.err
  misuse : s.misuse = s'.misuse
  valid : s.ctx.map Slot.valid = s'.ctx.map Slot.valid
  pending : s.pending = s'.pending
  responses : s.responses = s'.responses

/-- Covering the slots leaves their valid bits only. -/
theorem covered_ctx_eq_iff {s s' : State} :
    (covered s).ctx = (covered s').ctx ↔ s.ctx.map Slot.valid = s'.ctx.map Slot.valid := by
  have hinj : Function.Injective fun v : Bool => ({ Slot.free with valid := v } : Slot) :=
    fun _ _ h => congrArg Slot.valid h
  have hcover (l : List Slot) : (l.map fun slot => { Slot.free with valid := slot.valid }) =
      (l.map Slot.valid).map fun v => ({ Slot.free with valid := v } : Slot) := by simp
  simp only [covered, hcover]
  exact (List.map_injective_iff.mpr hinj).eq_iff

/-- States are equal under the cover exactly when they are alike and have the same DOUT. -/
theorem covered_eq_iff {s s' : State} : covered s = covered s' ↔ s.Alike s' ∧ s.dout = s'.dout := by
  constructor
  · intro h
    have field {α : Type} (f : State → α) : f (covered s) = f (covered s') := congrArg f h
    exact ⟨⟨field State.key, field State.din, field State.res, field State.err, field State.misuse,
      covered_ctx_eq_iff.mp (field State.ctx), field State.pending, field State.responses⟩, field State.dout⟩
  · rintro ⟨h, dout⟩
    exact State.ext_fields h.key h.din dout h.res h.err h.misuse (covered_ctx_eq_iff.mpr h.valid) h.pending
      h.responses

namespace State.Alike

variable {s s' : State}

theorem setPending (h : s.Alike s') (es : List Event) : (s.setPending es).Alike (s'.setPending es) :=
  { h with pending := rfl }

theorem raise (h : s.Alike s') (e : Err) : (s.raise e).Alike (s'.raise e) :=
  { h with err := rfl, misuse := congrArg (misuseAfter · e) h.misuse }

theorem done (h : s.Alike s') : s.done.Alike s'.done := { h with err := rfl }

theorem setRes (h : s.Alike s') (v : Word) : (s.setRes v).Alike (s'.setRes v) := { h with res := rfl }

/-- DOUT is no part of it. -/
theorem setDout (h : s.Alike s') (b b' : Block) : (s.setDout b).Alike (s'.setDout b') := { h with }

theorem setSlot (h : s.Alike s') (j : Nat) (slot : Slot) : (s.setSlot j slot).Alike (s'.setSlot j slot) :=
  { h with valid := by simp [List.map_set, h.valid] }

theorem byteResult (h : s.Alike s') (b : Byte) : (s.byteResult b).Alike (s'.byteResult b) := (h.setRes _).done

theorem respond (h : s.Alike s') (r : Nat) (v : Word) : (s.respond r v).Alike (s'.respond r v) :=
  { h with responses := congrArg (· ++ _) h.responses }

theorem resetEvent (h : s.Alike s') : s.resetEvent.Alike s'.resetEvent :=
  have nctx : s.ctx.length = s'.ctx.length := by simpa using congrArg List.length h.valid
  { key := rfl, din := rfl, res := rfl, err := rfl, misuse := rfl, valid := by simp [nctx], pending := h.pending,
    responses := h.responses }

theorem regStore (h : s.Alike s') (off : Nat) (v : Word) : (s.regStore off v).Alike (s'.regStore off v) := by
  unfold State.regStore
  split
  · exact { h with key := by simp [h.key] }
  · split
    · exact { h with din := by simp [h.din] }
    · exact h

theorem regRead (h : s.Alike s') (dout : s.dout = s'.dout) (off : Nat) : s.regRead off = s'.regRead off :=
  State.regRead_congr h.err h.misuse h.res dout off

theorem keyBytes (h : s.Alike s') (klen : Nat) : s.keyBytes klen = s'.keyBytes klen := by
  simp [State.keyBytes, h.key]

/-- Which slot is the lowest free one depends on the valid bits only. -/
theorem lowestFree? (h : s.Alike s') : s.lowestFree? = s'.lowestFree? := by
  have hvalid (u : State) : u.lowestFree? = (u.ctx.map Slot.valid).findIdx? (!·) := by
    simp [State.lowestFree?, List.findIdx?_map, Function.comp_def]
  rw [hvalid, hvalid, h.valid]

/-- Which handles are live depends on the valid bits only. -/
theorem isSome_liveSlot? (h : s.Alike s') (j : Nat) : (s.liveSlot? j).isSome = (s'.liveSlot? j).isSome := by
  have hvalid (u : State) : (u.liveSlot? j).isSome = ((u.ctx.map Slot.valid)[j]?).getD false := by
    rw [State.liveSlot?, List.getElem?_map]
    cases u.ctx[j]? with
    | none => rfl
    | some slot => cases hv : slot.valid <;> simp [hv]
  rw [hvalid, hvalid, h.valid]

theorem liveSlot?_none (h : s.Alike s') {j : Nat} (dead : s.liveSlot? j = none) : s'.liveSlot? j = none := by
  simpa [dead] using h.isSome_liveSlot? j

theorem liveSlot?_some (h : s.Alike s') {j : Nat} {slot : Slot} (live : s.liveSlot? j = some slot) :
    ∃ slot', s'.liveSlot? j = some slot' :=
  Option.isSome_iff_exists.mp ((h.isSome_liveSlot? j).symm.trans (by simp [live]))

/-- Alike states run a command to alike states; where they had the same DOUT, only ENC and DEC can part it. -/
theorem exec {i : Instr} {t : State} (h : s.Alike s') (dout : s.dout = s'.dout) (hr : ExecResult i s t) :
    ∃ t', ExecResult i s' t' ∧ t.Alike t' ∧ (t.dout = t'.dout ∨ ∃ j, i = .enc j ∨ i = .dec j) := by
  cases hr with
  | badLength hk => exact ⟨_, .badLength hk, h.raise _, .inl dout⟩
  | noFree hk full => exact ⟨_, .noFree hk (h.lowestFree? ▸ full), h.raise _, .inl dout⟩
  | created hk free =>
    refine ⟨_, .created hk (h.lowestFree? ▸ free), ?_, .inl dout⟩
    rw [h.keyBytes]
    exact ((h.setSlot _ _).setRes _).done
  | badContext hi dead => exact ⟨_, .badContext hi (h.liveSlot?_none dead), h.raise _, .inl dout⟩
  | encrypted live =>
    obtain ⟨_, live'⟩ := h.liveSlot?_some live
    exact ⟨_, .encrypted live', (h.setDout _ _).done, .inr ⟨_, .inl rfl⟩⟩
  | decrypted live =>
    obtain ⟨_, live'⟩ := h.liveSlot?_some live
    exact ⟨_, .decrypted live', (h.setDout _ _).done, .inr ⟨_, .inr rfl⟩⟩
  | released live =>
    obtain ⟨_, live'⟩ := h.liveSlot?_some live
    exact ⟨_, .released live', (h.setSlot _ _).done, .inl dout⟩
  | byteOut hi => exact ⟨_, .byteOut hi, h.byteResult _, .inl dout⟩

/-- Alike states with the same DOUT go on from an event to alike states; only the write of an ENC or a DEC to CMD can
part their DOUT. -/
theorem event {e : Event} {t : State} (h : s.Alike s') (dout : s.dout = s'.dout) (hr : EventResult e s t) :
    ∃ t', EventResult e s' t' ∧ t.Alike t' ∧
      (t.dout = t'.dout ∨ ∃ requester c j, e = .access requester (.write 4 0x00 c) ∧
        (decode c = .ok (.enc j) ∨ decode c = .ok (.dec j))) := by
  cases hr with
  | reset => exact ⟨_, .reset, h.resetEvent, .inl rfl⟩
  | read aligned inside =>
    refine ⟨_, .read aligned inside, ?_, .inl dout⟩
    rw [h.regRead dout]
    exact h.respond _ _
  | store aligned inside notCmd =>
    exact ⟨_, .store aligned inside notCmd, h.regStore _ _, .inl (by simpa using dout)⟩
  | command legal ran =>
    obtain ⟨t', hr', ht, hdout⟩ := h.exec dout (exec_cases ran)
    refine ⟨t', .command legal hr'.exec_eq, ht, hdout.imp_right ?_⟩
    rintro ⟨j, rfl | rfl⟩
    · exact ⟨_, _, j, rfl, .inl legal⟩
    · exact ⟨_, _, j, rfl, .inr legal⟩
  | illegal illegal => exact ⟨_, .illegal illegal, h.raise _, .inl dout⟩

end State.Alike

/-- Settles O48: alike states take the same event, are refused alike, and go on to alike states. -/
theorem slotContentIsHidden : Obligations.SlotContentIsHidden := by
  intro s s' hcov
  obtain ⟨h, dout⟩ := covered_eq_iff.mp hcov
  cases hp : s.pending with
  | nil =>
    refine .inr ⟨s, s', step_idle hp, step_idle (h.pending ▸ hp), ?_, .inl dout⟩
    exact covered_eq_iff.mpr ⟨h.setDout s'.dout s'.dout, rfl⟩
  | cons e rest =>
    have hp' : s'.pending = e :: rest := h.pending ▸ hp
    rw [step_event hp, step_event hp']
    obtain ⟨r, a, ref, rfl, href, hs⟩ | ⟨t, ht, hr⟩ := happen_result (s.setPending rest) e
    · exact .inl ⟨ref, hs, happen_refused href _ r⟩
    · obtain ⟨t', hr', halike, hdout⟩ := (h.setPending rest).event dout hr
      refine .inr ⟨t, t', ht, hr'.happen_eq, ?_, by simpa using hdout⟩
      exact covered_eq_iff.mpr ⟨halike.setDout t'.dout t'.dout, rfl⟩

end Sys2Proof.Machine
end

section
/-! PROOFS. Reads, STATUS, the reset values, and the step on a command word. -/

namespace Sys2Proof.Machine

/-- Settles O14: a read is refused for its form alone, and what it returns is made of STATUS, RES and DOUT. -/
theorem keyAndInputCannotBeReadBack : Obligations.KeyAndInputCannotBeReadBack := by
  intro s key din requester bytes off rest hp
  have hp' : ({ s with key := key, din := din } : State).pending = .access requester (.read bytes off) :: rest := hp
  rw [step_event hp, step_event hp']
  cases href : (Access.read bytes off).refusal? with
  | some ref => exact .inl ⟨ref, happen_refused href _ _, happen_refused href _ _⟩
  | none =>
    have answer (u : State) (err : u.err = s.err) (misuse : u.misuse = s.misuse) (res : u.res = s.res)
        (dout : u.dout = s.dout) :
        u.happen (.access requester (.read bytes off)) = .next (u.respond requester (s.regRead off)) := by
      rw [happen_served href, State.regAccess, State.regRead_congr err misuse res dout]
    exact .inr ⟨s.responses ++ [Response.mk requester (s.regRead off)], answer (s.setPending rest) rfl rfl rfl rfl,
      answer (({ s with key := key, din := din } : State).setPending rest) rfl rfl rfl rfl⟩

/-- Settles O7: a legal word runs its command, and the word of a well-formed command decodes to it. -/
theorem stepRunsTheDecodedCommand : Obligations.StepRunsTheDecodedCommand := by
  intro s requester c rest i hp
  refine ⟨step_command hp, ?_⟩
  rintro hw rfl
  exact step_command hp (decode_encode hw)

/-- Each bit of the STATUS word (R20). -/
theorem State.statusWord_getLsbD (s : State) (i : Nat) :
    s.statusWord.getLsbD i = if i < 4 then s.err.getLsbD i else decide (i = 4) && s.misuse := by
  have low : s.statusWord.getLsbD i =
      if i < 4 then s.err.getLsbD i else ((0 : BitVec 27) ++ BitVec.ofBool s.misuse).getLsbD (i - 4) :=
    BitVec.getLsbD_append
  have high : ((0 : BitVec 27) ++ BitVec.ofBool s.misuse).getLsbD (i - 4) =
      (decide (i - 4 = 0) && s.misuse) := by
    rw [BitVec.getLsbD_append, BitVec.getLsbD_ofBool]
    split
    · rfl
    · simp; omega
  rw [low, high]
  split
  · rfl
  · congr 2; simp; omega

/-- Settles O17: the three parts of the STATUS word, bit by bit. -/
theorem statusWordLayout : Obligations.StatusWordLayout := by
  intro s
  refine ⟨?_, s.statusWord_getLsbD 4, ?_⟩
  · ext i hi
    simp [s.statusWord_getLsbD, hi]
  · ext i hi
    simp [s.statusWord_getLsbD, show ¬ 5 + i < 4 by omega, show 5 + i ≠ 4 by omega]

/-- Settles O18: the buffers and the slots of the reset state are replicas of zero and of the free slot. -/
theorem resetValues : Obligations.ResetValues := by
  refine ⟨fun n => ?_, Config.nctxAtReset, by decide, rfl⟩
  refine ⟨by simp, by simp, by simp, rfl, rfl, rfl, by simp, fun slot hm => ?_⟩
  obtain rfl : slot = Slot.free := List.eq_of_mem_replicate hm
  exact ⟨rfl, rfl, by simp [Slot.free]⟩

end Sys2Proof.Machine
end

section
/-! PROOFS. The memory family: what each register access does as an equation of the step, what the register map reads
and stores case by case (R34 to R36, R39), and how an event counts on the requesters' side (R41). -/

namespace Sys2Proof.Machine

/-- An aligned 4-byte read inside the register space answers its requester and does nothing else (R33, R39). -/
theorem step_read {s : State} {r off : Nat} {rest : List Event} (hp : s.pending = .access r (.read 4 off) :: rest)
    (aligned : off % 4 = 0) (inside : off ≤ 0xFC) :
    step s = .next { s with pending := rest, responses := s.responses ++ [⟨r, s.regRead off⟩] } := by
  rw [step_event hp, happen_served (Access.refusal?_read aligned inside)]
  rfl

/-- An aligned 4-byte write inside the register space, not to CMD, stores and does nothing else (R33, R39). -/
theorem step_store {s : State} {r off : Nat} {v : Word} {rest : List Event}
    (hp : s.pending = .access r (.write 4 off v) :: rest) (aligned : off % 4 = 0) (inside : off ≤ 0xFC)
    (notCmd : off ≠ 0) : step s = .next ((s.setPending rest).regStore off v) := by
  rw [step_event hp]
  exact EventResult.happen_eq (.store aligned inside notCmd)

/-- `ERR` in bits 3:0 and `MISUSE` in bit 4, as a number (R20). -/
theorem State.statusWord_toNat (s : State) : s.statusWord.toNat = s.err.toNat + 16 * s.misuse.toNat := by
  have high : ((0 : BitVec 27) ++ BitVec.ofBool s.misuse).toNat = s.misuse.toNat := by
    rw [BitVec.toNat_append, BitVec.toNat_ofBool]
    simp
  rw [State.statusWord, BitVec.toNat_append, high, ← Nat.shiftLeft_add_eq_or_of_lt s.err.isLt, Nat.shiftLeft_eq]
  omega

/-- `DOUTW[j]` reads as the packed word of DOUT (R34, R36). -/
theorem State.regRead_dout (s : State) {off : Nat} (lo : 0x40 ≤ off) (hi : off ≤ 0x4C) :
    s.regRead off = packWord s.dout ((off - 0x40) / 4) := by
  simp [State.regRead, lo, hi, show off ≠ 4 by omega, show off ≠ 8 by omega]

/-- Every offset but those of STATUS, RES and DOUTW reads as 0 (R34, R35). -/
theorem State.regRead_zero (s : State) {off : Nat} (notStatus : off ≠ 0x04) (notRes : off ≠ 0x08)
    (notDout : ¬ (0x40 ≤ off ∧ off ≤ 0x4C)) : s.regRead off = 0 := by
  simp only [State.regRead, notStatus, notRes, notDout, if_false]

/-- A write outside KEYW and DINW stores nothing (R34, R35, R39). -/
theorem State.regStore_outside (s : State) {off : Nat} (v : Word) (h : ¬ (0x10 ≤ off ∧ off ≤ 0x3C)) :
    s.regStore off v = s := by
  rw [State.regStore, if_neg (by omega), if_neg (by omega)]

/-- A write to `KEYW[j]` replaces its bytes of KEY (R34, R36). -/
theorem State.regStore_keyw (s : State) {j : Nat} (v : Word) (hj : j < 8) :
    s.regStore (0x10 + 4 * j) v = { s with key := unpackWord s.key j v } := by
  rw [State.regStore, if_pos (by omega), show (0x10 + 4 * j - 0x10) / 4 = j by omega]

/-- A write to `DINW[j]` replaces its bytes of DIN (R34, R36). -/
theorem State.regStore_dinw (s : State) {j : Nat} (v : Word) (hj : j < 4) :
    s.regStore (0x30 + 4 * j) v = { s with din := unpackWord s.din j v } := by
  rw [State.regStore, if_neg (by omega), if_pos (by omega), show (0x30 + 4 * j - 0x30) / 4 = j by omega]

/-- Writing a register of a buffer twice is writing it once (R36). -/
theorem unpackWord_unpackWord {n : Nat} (buf : Vector Byte n) (j : Nat) (v : Word) :
    unpackWord (unpackWord buf j v) j v = unpackWord buf j v := by
  ext i hi
  rw [unpackWord_getElem, unpackWord_getElem]
  split <;> rfl

/-- A second equal store changes nothing (R39). -/
theorem State.regStore_regStore (s : State) (off : Nat) (v : Word) :
    (s.regStore off v).regStore off v = s.regStore off v := by
  unfold State.regStore
  split
  · simp only [unpackWord_unpackWord]
  · split
    · simp only [unpackWord_unpackWord]
    · rfl

/-- The register map does not see the events to come. -/
theorem State.setPending_regStore (s : State) (off : Nat) (v : Word) (es : List Event) :
    (s.regStore off v).setPending es = (s.setPending es).regStore off v := by
  simp only [State.regStore, apply_ite (State.setPending · es)]
  rfl

/-- The bytes of a written register, highest bits first (R36). -/
theorem unpackWord_bytes {n : Nat} (buf : Vector Byte n) {j : Nat} (v : Word) (hj : 4 * j + 3 < n) :
    (unpackWord buf j v)[4 * j]? = some (v.extractLsb' 24 8) ∧
      (unpackWord buf j v)[4 * j + 1]? = some (v.extractLsb' 16 8) ∧
      (unpackWord buf j v)[4 * j + 2]? = some (v.extractLsb' 8 8) ∧
      (unpackWord buf j v)[4 * j + 3]? = some (v.extractLsb' 0 8) := by
  have byte (k : Nat) (hk : k < 4) : (unpackWord buf j v)[4 * j + k]? = some (wordByte v k) := by
    rw [Vector.getElem?_eq_getElem (by omega), unpackWord_getElem, if_pos (by omega),
      show (4 * j + k) % 4 = k by omega]
  exact ⟨byte 0 (by decide), byte 1 (by decide), byte 2 (by decide), byte 3 (by decide)⟩

/-- The bytes of the other registers are as before (R36). -/
theorem unpackWord_getElem?_ne {n : Nat} (buf : Vector Byte n) {i j : Nat} (v : Word) (hi : i / 4 ≠ j) :
    (unpackWord buf j v)[i]? = buf[i]? := by
  by_cases h : i < n
  · rw [Vector.getElem?_eq_getElem h, Vector.getElem?_eq_getElem h, unpackWord_getElem, if_neg hi]
  · rw [Vector.getElem?_eq_none (by omega), Vector.getElem?_eq_none (by omega)]

/-- An access is refused exactly when it has a reason to be (R38). -/
theorem happen_access_refused_iff (s : State) (r : Nat) (a : Access) :
    (∃ ref, s.happen (.access r a) = .refused ref) ↔ a.refusal? ≠ none := by
  constructor
  · rintro ⟨ref, h⟩ served
    obtain ⟨_, _, _, he, href, -⟩ | ⟨t, ht, -⟩ := happen_result s (.access r a)
    · cases he
      rw [served] at href
      cases href
    · rw [ht] at h
      cases h
  · intro h
    obtain ⟨ref, href⟩ := Option.ne_none_iff_exists'.mp h
    exact ⟨ref, happen_refused href s r⟩

/-- An event leaves the events to come as they are (R41). -/
theorem EventResult.pending_eq {e : Event} {s t : State} (h : EventResult e s t) : t.pending = s.pending := by
  cases h with
  | reset => exact s.resetEvent_pending
  | read => exact State.respond_pending ..
  | store => exact State.regStore_pending ..
  | command _ ran => exact (exec_cases ran).kept.1
  | illegal => exact State.raise_pending ..

/-- Only a read answers, and it answers its requester once (R41). -/
theorem EventResult.responses_cases {e : Event} {s t : State} (h : EventResult e s t) :
    t.responses = s.responses ∨
      ∃ r bytes off v, e = .access r (.read bytes off) ∧ t.responses = s.responses ++ [⟨r, v⟩] := by
  cases h with
  | reset => exact .inl s.resetEvent_responses
  | read => exact .inr ⟨_, _, _, _, rfl, State.respond_responses ..⟩
  | store => exact .inl (State.regStore_responses ..)
  | command _ ran => exact .inl (exec_cases ran).kept.2.1
  | illegal => exact .inl (State.raise_responses ..)

/-- Settles O9: the step is the access, which is refused exactly when its form has no meaning. -/
theorem onlyAlignedWordAccessesAreServed : Obligations.OnlyAlignedWordAccessesAreServed := by
  intro s requester a rest hp
  rw [step_event hp, happen_access_refused_iff, ne_eq, Access.refusal?_eq_none]

/-- Settles O12: KEYW and DINW unpack the word they are written, DOUTW packs the bytes it reads. -/
theorem bufferRegistersAreBigEndian : Obligations.BufferRegistersAreBigEndian := by
  refine ⟨?_, ?_, ?_, by decide⟩
  · intro s requester rest v j hj hp
    obtain ⟨b0, b1, b2, b3⟩ := unpackWord_bytes s.din v (show 4 * j + 3 < 16 by omega)
    refine ⟨unpackWord s.din j v, ?_, b0, b1, b2, b3, fun i hi => unpackWord_getElem?_ne s.din v hi⟩
    rw [step_store hp (by omega) (by omega) (by omega), State.regStore_dinw _ v hj]
    rfl
  · intro s requester rest v j hj hp
    obtain ⟨b0, b1, b2, b3⟩ := unpackWord_bytes s.key v (show 4 * j + 3 < 32 by omega)
    refine ⟨unpackWord s.key j v, ?_, b0, b1, b2, b3, fun i hi => unpackWord_getElem?_ne s.key v hi⟩
    rw [step_store hp (by omega) (by omega) (by omega), State.regStore_keyw _ v hj]
    rfl
  · intro s requester rest j b0 b1 b2 b3 hj hp h0 h1 h2 h3
    have packed : s.regRead (0x40 + 4 * j) = b0 ++ b1 ++ b2 ++ b3 := by
      rw [s.regRead_dout (by omega) (by omega), show (0x40 + 4 * j - 0x40) / 4 = j by omega, packWord, h0, h1, h2, h3]
      rfl
    rw [step_read hp (by omega) (by omega), packed]

/-- Settles O13: a read-only register is outside KEYW and DINW, and a store to those is idempotent. -/
theorem registerWritesHaveNoFurtherEffect : Obligations.RegisterWritesHaveNoFurtherEffect := by
  constructor
  · intro s requester rest off v hp aligned readOnly
    rw [step_store hp aligned (by omega) (by omega), State.regStore_outside _ v (by omega)]
    rfl
  · intro s t requester rest off v hp aligned lo hi hs
    rw [step_store hp aligned (by omega) (by omega)] at hs
    injection hs with ht
    subst ht
    rw [step_store (State.regStore_pending ..) aligned (by omega) (by omega), State.setPending_regStore,
      State.regStore_regStore, ← State.setPending_regStore]
    rfl

/-- Settles O15: the step takes the first event, which keeps the rest and answers only as a read. -/
theorem eventsTakeEffectInOrder : Obligations.EventsTakeEffectInOrder := by
  refine ⟨fun s => step_idle, fun s t e rest hp hs => ?_⟩
  obtain ⟨idle, -⟩ | ⟨e', rest', hp', hr⟩ := step_cases hs
  · rw [hp] at idle
    cases idle
  · rw [hp] at hp'
    cases hp'
    exact ⟨hr.pending_eq, hr.responses_cases⟩

/-- Settles O10: the answer is what the register map reads, offset by offset. -/
theorem registerReadsFollowTheMap : Obligations.RegisterReadsFollowTheMap := by
  intro s requester rest off hp aligned inside
  refine ⟨s.regRead off, step_read hp aligned inside, ?_, ?_, s.regRead_dout, ?_⟩
  · rintro rfl
    exact s.statusWord_toNat
  · rintro rfl
    rfl
  · intro unread
    exact s.regRead_zero (by omega) (by omega) (by omega)

/-- Settles O11: a reserved offset is outside every readable and every writable register. -/
theorem reservedOffsetsHoldNothing : Obligations.ReservedOffsetsHoldNothing := by
  intro s requester rest off v aligned reserved
  constructor
  · intro hp
    rw [step_read hp aligned (by omega), s.regRead_zero (by omega) (by omega) (by omega)]
    rfl
  · intro hp
    rw [step_store hp aligned (by omega) (by omega), State.regStore_outside _ v (by omega)]
    rfl

end Sys2Proof.Machine
end

section
/-! PROOFS. The encoding family: which words are legal, said of their fields (R49), the word a legal word's fields make
(R46), and from these the round trip, the opcode map, the count of the legal words and the assembler's operand check. -/

open Sys2Proof.Reference

namespace Sys2Proof

/-- The word passes the three tests of R49. -/
abbrev LegalFields (c : Word) : Prop :=
  (fieldZ0 c).toNat = 0 ∧ (fieldZ1 c).toNat = 0 ∧
    ((fieldOP c).toNat = 7 ∨ ((fieldB c).toNat = 0 ∧ 1 ≤ (fieldOP c).toNat ∧ (fieldOP c).toNat ≤ 6))

/-- Each of the opcodes 1 to 7 has a row in R47, whatever its operands. -/
theorem exists_rowCommand_eq_ok {op : Nat} (op_pos : 0 < op) (op_lt : op < 8) (a b : Byte) :
    ∃ i, rowCommand op a b = .ok i := by
  interval_cases op <;> exact ⟨_, rfl⟩

/-- A word decodes to a command exactly when it passes the tests of R49. -/
theorem exists_decode_eq_ok_iff {c : Word} : (∃ i, decode c = .ok i) ↔ LegalFields c := by
  constructor
  · rintro ⟨i, h⟩
    obtain ⟨z0, z1, fields⟩ := decode_eq_ok h
    exact ⟨z0, z1, by omega⟩
  · rintro ⟨z0, z1, fields⟩
    rw [decode_fields z0 z1 (by omega) (by omega) (by omega)]
    exact exists_rowCommand_eq_ok (by omega) (by omega) _ _

/-- A word that fails one of the tests of R49 is illegal. -/
theorem isIllegal_of_not_legalFields {c : Word} (h : ¬ LegalFields c) : IsIllegal c := by
  cases hd : decode c with
  | ok i => exact absurd (exists_decode_eq_ok_iff.mp ⟨i, hd⟩) h
  | error e => exact ⟨e, hd⟩

/-- A word whose reserved fields are 0 is the command word of its other fields (R46). -/
theorem commandWord_fields {c : Word} (z0 : (fieldZ0 c).toNat = 0) (z1 : (fieldZ1 c).toNat = 0) :
    commandWord (fieldOP c).toNat (fieldA c).toNat (fieldB c).toNat = c := by
  apply BitVec.eq_of_toNat_eq
  rw [commandWord_toNat _ _ _ (by omega) (by omega) (by omega)]
  rw [fieldZ0_toNat] at z0
  rw [fieldZ1_toNat] at z1
  rw [fieldOP_toNat, fieldA_toNat, fieldB_toNat]
  omega

/-- A word that decodes to a command is that command's encoding, and the command is well-formed (R58). -/
theorem encode_of_decode {c : Word} {i : Instr} (h : decode c = .ok i) : i.wellFormed = true ∧ encode i = c := by
  obtain ⟨z0, z1, ⟨op, rfl⟩ | ⟨b, h⟩⟩ := decode_eq_ok h
  · exact ⟨rfl, by rw [encode, ← op, commandWord_fields z0 z1]⟩
  · have word {n : Nat} (op : (fieldOP c).toNat = n) : commandWord n (fieldA c).toNat 0 = c := by
      rw [← op, ← b, commandWord_fields z0 z1]
    have fits : decide ((fieldA c).toNat ≤ 255) = true := decide_eq_true (by omega)
    obtain ⟨op, rfl⟩ | ⟨op, rfl⟩ | ⟨op, rfl⟩ | ⟨op, rfl⟩ | ⟨op, rfl⟩ | ⟨op, rfl⟩ := h
    · exact ⟨fits, word op⟩
    · exact ⟨fits, word op⟩
    · exact ⟨fits, word op⟩
    · exact ⟨fits, word op⟩
    · exact ⟨rfl, word op⟩
    · exact ⟨rfl, word op⟩

/-- Settles O2: the encoder's round trip, the decoder's, and with the first one injectivity. -/
theorem decodeAndEncodeAreInverse : Obligations.DecodeAndEncodeAreInverse := by
  refine ⟨fun i => decode_encode, fun c i => encode_of_decode, fun i j hi hj same => ?_⟩
  have decoded : Except.ok i = Except.ok (ε := Illegal) j := by
    rw [← decode_encode hi, same, decode_encode hj]
  injection decoded

/-- Settles O3: a word that fails a test of R49 is illegal, and any other is the row of its opcode. -/
theorem decodeIsStrictAndTotal : Obligations.DecodeIsStrictAndTotal := by
  intro c z0 z1 op a b
  have hz0 : (fieldZ0 c).toNat = z0 := fieldZ0_toNat c
  have hz1 : (fieldZ1 c).toNat = z1 := by rw [fieldZ1_toNat]; omega
  have hop : (fieldOP c).toNat = op := fieldOP_toNat c
  have hA : (fieldA c).toNat = a := fieldA_toNat c
  have hB : (fieldB c).toNat = b := fieldB_toNat c
  have byteA : BitVec.ofNat 8 a = fieldA c := by simp [← hA]
  have byteB : BitVec.ofNat 8 b = fieldB c := by simp [← hB]
  rw [byteA, byteB, ← hA]
  refine ⟨fun h => isIllegal_of_not_legalFields (by omega), fun h => isIllegal_of_not_legalFields (by omega),
    fun h h' => isIllegal_of_not_legalFields (by omega), fun h0 h1 => ?_⟩
  have row {n : Nat} (op_eq : op = n) (op_pos : 0 < n) (op_lt : n < 8) (onlyGfmul : n = 7 ∨ b = 0) :
      decode c = rowCommand n (fieldA c) (fieldB c) := by
    rw [decode_fields (by omega) (by omega) (by omega) (by omega) (by omega), hop, op_eq]
  exact ⟨fun e => row e (by decide) (by decide) (.inl rfl), fun hb =>
    ⟨fun e => row e (by decide) (by decide) (.inr hb), fun e => row e (by decide) (by decide) (.inr hb),
      fun e => row e (by decide) (by decide) (.inr hb), fun e => row e (by decide) (by decide) (.inr hb),
      fun e => row e (by decide) (by decide) (.inr hb), fun e => row e (by decide) (by decide) (.inr hb)⟩⟩

/-- Settles O1: the worked words are those of the encoder and decode, and the others fail a test of R49. -/
theorem workedWordsDecodeAndEncode : Obligations.WorkedWordsDecodeAndEncode := by
  refine ⟨by decide, fun c hc => isIllegal_of_not_legalFields ?_⟩
  simp only [List.mem_cons, List.not_mem_nil, or_false] at hc
  obtain rfl | rfl | rfl | rfl | rfl := hc <;> decide

/-- The encoding of every well-formed command selects the row of its own mnemonic and no other (R47). -/
theorem encodeSelectsRow : ∀ i : Instr, Laws.EncodeSelectsRow.Statement i
  | .keyexp klen => Laws.EncodeSelectsRow.keyexp klen
  | .enc h => Laws.EncodeSelectsRow.enc h
  | .dec h => Laws.EncodeSelectsRow.dec h
  | .release h => Laws.EncodeSelectsRow.release h
  | .sbox x => Laws.EncodeSelectsRow.sbox x
  | .invsbox x => Laws.EncodeSelectsRow.invsbox x
  | .gfmul a b => Laws.EncodeSelectsRow.gfmul a b

/-- A legal word selects the row of its command's mnemonic and no other (R47). -/
theorem selects_of_decode {c : Word} {i : Instr} (h : decode c = .ok i) {row : OpcodeRow} (hrow : row ∈ opcodeTable) :
    row.selects c = (row.mnemonic == i.mnemonic) := by
  obtain ⟨wf, rfl⟩ := encode_of_decode h
  exact encodeSelectsRow i wf row hrow

/-- A field that a mask keeps whole has in a word the value it has in the masked word. -/
theorem extractLsb'_eq_of_and_eq {n start len : Nat} {c mask pattern : BitVec n} (masked : c &&& mask = pattern)
    (keeps : mask.extractLsb' start len = BitVec.allOnes len) :
    c.extractLsb' start len = pattern.extractLsb' start len := by
  rw [← masked, BitVec.extractLsb'_and, keeps, BitVec.and_allOnes]

/-- Each mask of R47 keeps the fields that R49 tests, but GFMUL's not `B`; each pattern is a legal word. -/
theorem opcodeTable_fields : ∀ row ∈ opcodeTable,
    fieldOP row.mask = BitVec.allOnes 4 ∧ fieldZ0 row.mask = BitVec.allOnes 4 ∧ fieldZ1 row.mask = BitVec.allOnes 8 ∧
      LegalFields row.pattern ∧ ((fieldOP row.pattern).toNat = 7 ∨ fieldB row.mask = BitVec.allOnes 8) := by
  decide

/-- A word that selects a row of R47 is legal. -/
theorem legalFields_of_masked {row : OpcodeRow} (hrow : row ∈ opcodeTable) {c : Word}
    (masked : c &&& row.mask = row.pattern) : LegalFields c := by
  obtain ⟨keepsOP, keepsZ0, keepsZ1, ⟨z0, z1, fields⟩, keepsB⟩ := opcodeTable_fields row hrow
  have op : fieldOP c = fieldOP row.pattern := extractLsb'_eq_of_and_eq masked keepsOP
  rw [← show fieldZ0 c = fieldZ0 row.pattern from extractLsb'_eq_of_and_eq masked keepsZ0] at z0
  rw [← show fieldZ1 c = fieldZ1 row.pattern from extractLsb'_eq_of_and_eq masked keepsZ1] at z1
  rw [← op] at fields keepsB
  obtain gfmul | keepsB := keepsB
  · exact ⟨z0, z1, .inl gfmul⟩
  · rw [← show fieldB c = fieldB row.pattern from extractLsb'_eq_of_and_eq masked keepsB] at fields
    exact ⟨z0, z1, fields⟩

/-- A word selects a row exactly when it decodes to a command of the row's mnemonic (R47). -/
theorem selects_iff {row : OpcodeRow} (hrow : row ∈ opcodeTable) {c : Word} :
    row.selects c = true ↔ ∃ i, decode c = .ok i ∧ i.mnemonic = row.mnemonic := by
  constructor
  · intro h
    obtain ⟨i, hd⟩ := exists_decode_eq_ok_iff.mpr (legalFields_of_masked hrow (beq_iff_eq.mp h))
    rw [selects_of_decode hd hrow] at h
    exact ⟨i, hd, (beq_iff_eq.mp h).symm⟩
  · rintro ⟨i, hd, same⟩
    rw [selects_of_decode hd hrow, same, beq_self_eq_true]

/-- The rows of R47 have different mnemonics. -/
theorem opcodeTable_mnemonics_ne : opcodeTable.Pairwise fun row row' => row.mnemonic ≠ row'.mnemonic := by decide

/-- Settles O4: a word that selects a row decodes to that row's mnemonic, and no two rows have one mnemonic. -/
theorem opcodeRowsAreSelectedByMaskAndMatch : Obligations.OpcodeRowsAreSelectedByMaskAndMatch := by
  refine ⟨fun row hrow c => beq_iff_eq.symm.trans (selects_iff hrow), ?_⟩
  refine opcodeTable_mnemonics_ne.imp_of_mem fun hrow hrow' differ c ⟨h, h'⟩ => differ ?_
  obtain ⟨i, hd, same⟩ := (selects_iff hrow).mp h
  obtain ⟨i', hd', same'⟩ := (selects_iff hrow').mp h'
  rw [hd] at hd'
  injection hd' with hi
  rw [← same, ← same', hi]

/-- The opcode and the operands of a legal word: a row of the first six with `A`, or GFMUL's with `A` and `B`. -/
abbrev LegalOperands := Fin 6 × Fin 256 ⊕ Fin 256 × Fin 256

/-- The legal word with this opcode and these operands (R46, R47). -/
def legalWord : LegalOperands → Word
  | .inl (row, a) => commandWord (row + 1) a 0
  | .inr (a, b) => commandWord 7 a b

theorem legalWord_inl_toNat (row : Fin 6) (a : Fin 256) :
    (legalWord (.inl (row, a))).toNat = row + 1 + a * 2 ^ 8 :=
  commandWord_toNat _ _ 0 (by omega) (by omega) (by omega)

theorem legalWord_inr_toNat (a b : Fin 256) : (legalWord (.inr (a, b))).toNat = 7 + a * 2 ^ 8 + b * 2 ^ 16 :=
  commandWord_toNat 7 _ _ (by omega) (by omega) (by omega)

/-- Words with different opcodes or operands differ. -/
theorem legalWord_injective : Function.Injective legalWord := by
  intro x y same
  have number := congrArg BitVec.toNat same
  obtain ⟨row, a⟩ | ⟨a, b⟩ := x <;> obtain ⟨row', a'⟩ | ⟨a', b'⟩ := y <;>
    simp only [legalWord_inl_toNat, legalWord_inr_toNat, Sum.inl.injEq, Sum.inr.injEq, Prod.mk.injEq, reduceCtorEq,
      Fin.ext_iff] at number ⊢ <;>
    omega

/-- The legal words are those made of an opcode and operands (R49, R50). -/
theorem exists_legalWord_eq_iff {c : Word} : (∃ x, legalWord x = c) ↔ ∃ i, decode c = .ok i := by
  constructor
  · rintro ⟨⟨row, a⟩ | ⟨a, b⟩, rfl⟩
    · rw [legalWord, decode_commandWord (by omega) (by omega) (by omega) (by omega) (.inr rfl)]
      exact exists_rowCommand_eq_ok (by omega) (by omega) _ _
    · exact ⟨_, decode_commandWord (by omega) (by omega) (by omega) (by omega) (.inl rfl)⟩
  · intro legal
    obtain ⟨z0, z1, op | ⟨b, lo, hi⟩⟩ := exists_decode_eq_ok_iff.mp legal
    · exact ⟨.inr (⟨_, (fieldA c).isLt⟩, ⟨_, (fieldB c).isLt⟩), by rw [legalWord, ← op, commandWord_fields z0 z1]⟩
    · refine ⟨.inl (⟨(fieldOP c).toNat - 1, by omega⟩, ⟨_, (fieldA c).isLt⟩), ?_⟩
      rw [legalWord, Nat.sub_add_cancel lo, ← b, commandWord_fields z0 z1]

/-- Settles O5: six rows with one operand byte and one row with two. -/
theorem legalWordsAre67072 : Obligations.LegalWordsAre67072 := by
  refine ⟨(Finset.univ.image legalWord).toList, Finset.nodup_toList _, ?_, fun c => ?_⟩
  · have count : Fintype.card LegalOperands = 6 * 256 + 256 * 256 := by
      simp only [LegalOperands, Fintype.card_sum, Fintype.card_prod, Fintype.card_fin]
    rw [Finset.length_toList, Finset.card_image_of_injective _ legalWord_injective, Finset.card_univ, count]
  · rw [← exists_legalWord_eq_iff, Finset.mem_toList, Finset.mem_image]
    simp only [Finset.mem_univ, true_and]

/-- The operands of a command fit their fields exactly when it is well-formed (R48, R53). -/
theorem wellFormed_iff {i : Instr} : i.wellFormed = true ↔ ∀ a ∈ i.operands, a ≤ 255 := by
  have fits (x : Byte) : x.toNat ≤ 255 := by omega
  cases i <;> simp [Instr.wellFormed, Instr.operands, fits]

/-- What the assembler accepts: the command has the line's mnemonic and operands, none past 255 (R53). -/
theorem assemble_eq_some {mnemonic : String} {operands : List Nat} {i : Instr}
    (h : assemble mnemonic operands = some i) :
    i.mnemonic = mnemonic ∧ i.operands = operands ∧ ∀ a ∈ operands, a ≤ 255 := by
  unfold assemble at h
  split at h
  case isFalse => cases h
  case isTrue fits =>
    replace fits : ∀ a ∈ operands, a ≤ 255 := by simpa using fits
    have byte {a : Nat} (ha : a ∈ operands) : (BitVec.ofNat 8 a).toNat = a :=
      Nat.mod_eq_of_lt (Nat.lt_succ_of_le (fits a ha))
    split at h
    case h_1 a =>
      have ha := byte (List.mem_singleton.mpr rfl)
      split_ifs at h <;> cases h <;> exact ⟨‹mnemonic = _›.symm, by simp [Instr.operands, ha], fits⟩
    case h_2 a b =>
      have ha := byte (a := a) (by simp)
      have hb := byte (a := b) (by simp)
      split_ifs at h
      cases h
      exact ⟨‹mnemonic = _›.symm, by simp [Instr.operands, ha, hb], fits⟩
    case h_3 => cases h

/-- The assembler makes a well-formed command of its own mnemonic and operands (R53). -/
theorem assemble_self {i : Instr} (h : i.wellFormed = true) : assemble i.mnemonic i.operands = some i := by
  have fits : i.operands.all (· ≤ 255) = true := by simpa using wellFormed_iff.mp h
  unfold assemble
  rw [if_pos fits]
  cases i <;> simp [Instr.mnemonic, Instr.operands]

/-- Settles O6: the operands that the assembler lets through are those that make a command well-formed. -/
theorem assemblerAcceptsOperandsUpTo255 : Obligations.AssemblerAcceptsOperandsUpTo255 := by
  refine ⟨fun mnemonic operands i h => ?_, fun i => assemble_self⟩
  obtain ⟨rfl, rfl, fits⟩ := assemble_eq_some h
  exact ⟨wellFormed_iff.mpr fits, rfl, rfl, fits⟩

end Sys2Proof
end

section
/-! PROOFS. The source's calls as runs (R54, R55): stores to a buffer, one command, and the reads of its answers. -/

open Sys2Proof.Reference

namespace Sys2Proof.Machine

/-- A run goes on from where its first steps ended. -/
theorem run_add {M : Host.Core} {m : Nat} {s t : M.State} (h : M.run m s = .next t) (n : Nat) :
    M.run (m + n) s = M.run n t := by
  induction m generalizing s with
  | zero =>
    injection h with h
    rw [Nat.zero_add, h]
  | succ m ih =>
    rw [Host.Core.run] at h
    rw [Nat.add_right_comm, Host.Core.run]
    cases hs : M.step s with
    | next u =>
      simp only [hs] at h ⊢
      exact ih h
    | fault r => simp only [hs, reduceCtorEq] at h
    | refused r => simp only [hs, reduceCtorEq] at h

/-- A run goes on from where its first step ended. -/
theorem run_succ {M : Host.Core} {s t : M.State} (h : M.step s = .next t) (n : Nat) : M.run (n + 1) s = M.run n t := by
  rw [Host.Core.run, h]

/-- Reads by one requester, at these offsets. -/
def readEvents (r : Nat) (offs : List Nat) : List Event := offs.map fun off => .access r (.read 4 off)

/-- The answers that these reads give at a state. -/
def readAnswers (r : Nat) (s : State) (offs : List Nat) : List Response := offs.map fun off => ⟨r, s.regRead off⟩

/-- Reads one after another answer in order and do nothing else (R33, R39). -/
theorem run_reads {r : Nat} {offs : List Nat} (served : ∀ off ∈ offs, off % 4 = 0 ∧ off ≤ 0xFC) {s : State}
    {rest : List Event} (hp : s.pending = readEvents r offs ++ rest) :
    Sys2Proof.core.run offs.length s =
      .next { s with pending := rest, responses := s.responses ++ readAnswers r s offs } := by
  induction offs generalizing s with
  | nil => simp [readAnswers, Host.Core.run, ← show s.pending = rest from hp]
  | cons off offs ih =>
    obtain ⟨⟨aligned, inside⟩, served⟩ := List.forall_mem_cons.mp served
    refine (run_succ (step_read hp aligned inside) offs.length).trans ((ih served rfl).trans ?_)
    simp only [List.append_assoc]
    rfl

/-- A command of a well-formed instruction and then reads: the reads answer from the state that the command leaves. -/
theorem run_issue_reads {r : Nat} {i : Instr} (wf : i.wellFormed = true) {offs : List Nat}
    (served : ∀ off ∈ offs, off % 4 = 0 ∧ off ≤ 0xFC) {s t : State} {rest : List Event}
    (hp : s.pending = .access r (issue i) :: (readEvents r offs ++ rest))
    (ran : ExecResult i (s.setPending (readEvents r offs ++ rest)) t) :
    Sys2Proof.core.run (offs.length + 1) s =
      .next { t with pending := rest, responses := t.responses ++ readAnswers r t offs } := by
  have first : step s = .next t := (step_command hp (decode_encode wf)).trans ran.exec_eq
  exact (run_succ first _).trans (run_reads served ran.kept.1)

/-- Stores by one requester: `w 0`, ..., `w (m - 1)` at `base`, `base + 4`, ... -/
def storeEvents (r base : Nat) (w : Nat → Word) (m : Nat) : List Event :=
  (List.range m).map fun j => .access r (.write 4 (base + 4 * j) (w j))

/-- A buffer after `w 0`, ..., `w (m - 1)` are written to its registers in order. -/
def unpackWords {n : Nat} (buf : Vector Byte n) (w : Nat → Word) (m : Nat) : Vector Byte n :=
  (List.range m).foldl (fun buf j => unpackWord buf j (w j)) buf

theorem storeEvents_succ (r base : Nat) (w : Nat → Word) (m : Nat) :
    storeEvents r base w (m + 1) = storeEvents r base w m ++ [.access r (.write 4 (base + 4 * m) (w m))] := by
  simp [storeEvents, List.range_succ]

theorem unpackWords_succ {n : Nat} (buf : Vector Byte n) (w : Nat → Word) (m : Nat) :
    unpackWords buf w (m + 1) = unpackWord (unpackWords buf w m) m (w m) := by
  simp [unpackWords, List.range_succ]

/-- The bytes of the written registers are those of their words, the others are as before (R36). -/
theorem unpackWords_getElem {n : Nat} (buf : Vector Byte n) (w : Nat → Word) (m : Nat) {i : Nat} (h : i < n) :
    (unpackWords buf w m)[i] = if i / 4 < m then wordByte (w (i / 4)) (i % 4) else buf[i] := by
  induction m with
  | zero => rfl
  | succ m ih =>
    rw [unpackWords_succ, unpackWord_getElem, ih]
    by_cases last : i / 4 = m
    · rw [if_pos last, if_pos (by omega), last]
    · rw [if_neg last]
      simp only [show i / 4 < m + 1 ↔ i / 4 < m by omega]

/-- Stores one after another, where `u j` is the state after the first `j` of them but for the events to come
(R33, R39). -/
theorem run_stores {r base m : Nat} (aligned : base % 4 = 0) (notCmd : 0 < base) (inside : base + 4 * m ≤ 0x100)
    {w : Nat → Word} {u : Nat → State} (stored : ∀ j, j < m → (u j).regStore (base + 4 * j) (w j) = u (j + 1))
    {rest : List Event} (hp : (u 0).pending = storeEvents r base w m ++ rest) :
    Sys2Proof.core.run m (u 0) = .next ((u m).setPending rest) := by
  induction m generalizing rest with
  | zero => rw [← show (u 0).pending = rest from hp]; rfl
  | succ m ih =>
    rw [storeEvents_succ, List.append_assoc] at hp
    have front := ih (by omega) (fun j hj => stored j (by omega)) hp
    have last : step ((u m).setPending (.access r (.write 4 (base + 4 * m) (w m)) :: rest)) =
        .next ((u (m + 1)).setPending rest) := by
      rw [step_store (State.setPending_pending ..) (by omega) (by omega) (by omega), ← stored m (by omega),
        State.setPending_regStore]
      rfl
    exact (run_add front 1).trans (run_succ last 0)

/-- Stores to KEYW put the words into KEY and do nothing else (R36). -/
theorem run_keyw {r m : Nat} (hm : m ≤ 8) {w : Nat → Word} {s : State} {rest : List Event}
    (hp : s.pending = storeEvents r 0x10 w m ++ rest) :
    Sys2Proof.core.run m s = .next { s with key := unpackWords s.key w m, pending := rest } :=
  run_stores (u := fun j => { s with key := unpackWords s.key w j }) rfl (by decide) (by omega)
    (fun j hj => by rw [State.regStore_keyw _ _ (by omega), unpackWords_succ]) hp

/-- Stores to DINW put the words into DIN and do nothing else (R36). -/
theorem run_dinw {r m : Nat} (hm : m ≤ 4) {w : Nat → Word} {s : State} {rest : List Event}
    (hp : s.pending = storeEvents r 0x30 w m ++ rest) :
    Sys2Proof.core.run m s = .next { s with din := unpackWords s.din w m, pending := rest } :=
  run_stores (u := fun j => { s with din := unpackWords s.din w j }) rfl (by decide) (by omega)
    (fun j hj => by rw [State.regStore_dinw _ _ (by omega), unpackWords_succ]) hp

/-- Byte `k` of a word made of four bytes in order (R10). -/
theorem wordByte_wordOf_of_lt (f : Nat → Byte) {k : Nat} (hk : k < 4) :
    wordByte (wordOf (f 0) (f 1) (f 2) (f 3)) k = f k := by
  obtain ⟨b0, b1, b2, b3⟩ := wordByte_wordOf (f 0) (f 1) (f 2) (f 3)
  interval_cases k
  · exact b0
  · exact b1
  · exact b2
  · exact b3

/-- Byte `i` of a key stands in its word `i / 4` (R75). -/
theorem wordByte_keyWord (key : List Byte) (i : Nat) : wordByte (keyWord key (i / 4)) (i % 4) = key.getD i 0 := by
  refine (wordByte_wordOf_of_lt (fun k => key.getD (4 * (i / 4) + k) 0) (by omega)).trans ?_
  simp only [Nat.div_add_mod]

/-- Byte `i` of a buffer stands in its register `i / 4` (R36). -/
theorem wordByte_packWord {n : Nat} (buf : Vector Byte n) {i : Nat} (h : i < n) :
    wordByte (packWord buf (i / 4)) (i % 4) = buf[i] := by
  refine (wordByte_wordOf_of_lt (fun k => buf[4 * (i / 4) + k]?.getD 0) (by omega)).trans ?_
  simp only [Nat.div_add_mod, Vector.getElem?_eq_getElem h, Option.getD_some]

/-- WRDIN replaces the whole of DIN (R54). -/
theorem unpackWords_packWord (buf b : Block) : unpackWords buf (packWord b) 4 = b := by
  ext i hi
  rw [unpackWords_getElem _ _ _ hi, if_pos (by omega), wordByte_packWord b hi]

/-- WRKEY of whole words replaces the front of KEY (R54). -/
theorem unpackWords_keyWord_take {key : List Byte} {m : Nat} (len : key.length = 4 * m) (fits : m ≤ 8)
    (buf : KeyBuffer) : (unpackWords buf (keyWord key) m).toList.take key.length = key := by
  apply List.ext_getElem
  · simp only [List.length_take, Vector.length_toList]; omega
  · intro i hi hi'
    rw [List.getElem_take, Vector.getElem_toList, unpackWords_getElem, if_pos (by omega), wordByte_keyWord,
      List.getD_eq_getElem _ _ hi']

/-- WRKEY of whole words keeps KEY behind the key (R54). -/
theorem unpackWords_drop {n : Nat} (buf : Vector Byte n) (w : Nat → Word) {m k : Nat} (hk : 4 * m ≤ k) :
    (unpackWords buf w m).toList.drop k = buf.toList.drop k := by
  apply List.ext_getElem
  · simp only [List.length_drop, Vector.length_toList]
  · intro i hi hi'
    rw [List.getElem_drop, List.getElem_drop, Vector.getElem_toList, Vector.getElem_toList, unpackWords_getElem,
      if_neg (by omega)]

/-- STATUS after a command without error (R20). -/
theorem State.statusWord_of_err_eq_zero {s : State} (err : s.err = 0) : s.statusWord = okStatus s.misuse := by
  unfold State.statusWord okStatus
  rw [err]
  cases s.misuse <;> rfl

/-- RDSTATUS after a command without error (R54). -/
theorem State.regRead_status {s : State} (err : s.err = 0) : s.regRead 0x04 = okStatus s.misuse :=
  s.statusWord_of_err_eq_zero err

/-- The offsets that ENCRYPT and DECRYPT read: RDSTATUS, then RDOUT (R54, R55). -/
def transformReads : List Nat := [0x04, 0x40, 0x44, 0x48, 0x4C]

/-- RDSTATUS and RDOUT after a transform without error (R54, R55). -/
theorem readAnswers_transformReads {s : State} (err : s.err = 0) (r : Nat) :
    readAnswers r s transformReads = ⟨r, okStatus s.misuse⟩ :: blockResponses r s.dout := by
  rw [transformReads, readAnswers, List.map_cons, State.regRead_status err]
  rfl

/-- WRDIN, a command that puts `d` into DOUT, RDSTATUS and RDOUT: the shape of ENCRYPT and DECRYPT (R55). -/
theorem run_transform {r : Nat} {i : Instr} (wf : i.wellFormed = true) {s : State} {b d : Block} {rest : List Event}
    (hp : s.pending =
      storeEvents r 0x30 (packWord b) 4 ++ .access r (issue i) :: (readEvents r transformReads ++ rest))
    (ran : ∀ u : State, u.ctx = s.ctx → u.din = b → ExecResult i u (u.setDout d).done) :
    Sys2Proof.core.run 10 s = .next { s with
      din := b, dout := d, err := 0, pending := rest
      responses := s.responses ++ ⟨r, okStatus s.misuse⟩ :: blockResponses r d } := by
  have stored := run_dinw (by decide) hp
  rw [unpackWords_packWord] at stored
  refine (run_add stored 6).trans (Eq.trans (run_issue_reads wf (offs := transformReads) (by decide) rfl
    (ran _ rfl rfl)) ?_)
  rw [readAnswers_transformReads rfl]
  rfl

/-- Settles O56: ENC and DEC on a live handle put the transformed block into DOUT. -/
theorem transformCallsAnswerTheBlock : Obligations.TransformCallsAnswerTheBlock := by
  intro s requester h b rest slot hh hslot valid
  have fits : decide (h ≤ 255) = true := decide_eq_true hh
  have live {u : State} (ctx : u.ctx = s.ctx) : u.liveSlot? h = some slot :=
    liveSlot?_eq_some.mpr ⟨ctx ▸ hslot, valid⟩
  constructor
  · intro hp
    rw [Call.events, Call.accesses, if_pos hh] at hp
    refine run_transform (i := .enc h) fits hp fun u ctx din => ?_
    rw [← din]
    exact .encrypted (live ctx)
  · intro hp
    rw [Call.events, Call.accesses, if_pos hh] at hp
    refine run_transform (i := .dec h) fits hp fun u ctx din => ?_
    rw [← din]
    exact .decrypted (live ctx)

/-- A CREATE call of whole words: WRKEY, KEYEXP, RDSTATUS and RDRES (R55). -/
theorem create_events {key : List Byte} {m : Nat} (len : key.length = 4 * m) (fits : m ≤ 8) (r : Nat) :
    (Call.create key).events r =
      storeEvents r 0x10 (keyWord key) m ++ .access r (issue (.keyexp key.length)) :: readEvents r [0x04, 0x08] := by
  rw [Call.events, Call.accesses, if_pos (by omega), wrkey, show (key.length + 3) / 4 = m by omega, List.map_append,
    List.map_map]
  rfl

/-- RDSTATUS and RDRES after a command without error (R54, R55). -/
theorem readAnswers_createReads {s : State} (err : s.err = 0) (r : Nat) :
    readAnswers r s [0x04, 0x08] = [⟨r, okStatus s.misuse⟩, ⟨r, s.res⟩] := by
  rw [readAnswers, List.map_cons, State.regRead_status err]
  rfl

/-- CREATE with an accepted key: the slot it makes and what it answers, KEY being as WRKEY leaves it (R55, R80). -/
theorem run_create {r h : Nat} {key : List Byte} (hk : validKeyLength key.length) {s : State} (free : LowestFree s h)
    {rest : List Event} (hp : s.pending = (Call.create key).events r ++ rest) :
    Sys2Proof.core.run (key.length / 4 + 3) s = .next { s with
      key := unpackWords s.key (keyWord key) (key.length / 4)
      ctx := s.ctx.set h (newContext key), res := handleWord h, err := 0, pending := rest
      responses := s.responses ++ [⟨r, okStatus s.misuse⟩, ⟨r, handleWord h⟩] } := by
  have len : key.length = 4 * (key.length / 4) := by omega
  rw [create_events len (by omega), List.append_assoc] at hp
  have stored := run_keyw (by omega) hp
  have ran (u : State) (ctx : u.ctx = s.ctx) (bytes : u.keyBytes key.length = key) :
      ExecResult (.keyexp key.length) u ((u.setSlot h (newContext key)).setRes (handleWord h)).done := by
    have created := ExecResult.created (s := u) (h := h) hk
      (by rw [State.lowestFree?, ctx]; exact lowestFree?_eq_some.mpr free)
    rwa [bytes] at created
  have fits : decide (key.length ≤ 255) = true := decide_eq_true (by omega)
  refine (run_add stored 3).trans (Eq.trans (run_issue_reads (i := .keyexp key.length) fits (offs := [0x04, 0x08])
    (by decide) rfl (ran _ rfl (unpackWords_keyWord_take len (by omega) s.key))) ?_)
  rw [readAnswers_createReads rfl]
  rfl

/-- Settles O57: WRKEY puts the key in front of KEY, KEYEXP expands it, and RELEASE frees the slot of a live handle. -/
theorem lifecycleCallsAnswerTheHandle : Obligations.LifecycleCallsAnswerTheHandle := by
  constructor
  · intro s requester h key rest hk free hp
    have len : key.length = 4 * (key.length / 4) := by omega
    exact ⟨_, run_create hk free hp, unpackWords_keyWord_take len (by omega) s.key,
      unpackWords_drop s.key _ (by omega), rfl⟩
  · intro s requester h rest hh live hp
    obtain ⟨slot, hslot, valid⟩ := live
    rw [Call.events, Call.accesses, if_pos hh] at hp
    have answered := run_issue_reads (i := .release h) (decide_eq_true hh) (offs := [0x04]) (by decide) hp
      (ExecResult.released (liveSlot?_eq_some.mpr ⟨hslot, valid⟩))
    rw [readAnswers, List.map_singleton, State.regRead_status rfl] at answered
    exact answered

end Sys2Proof.Machine
end

section
/-! PROOFS. The field: an induction over bytes, the laws of the product that it gives (R60, R61), and the inverse. -/

open Sys2Proof.Reference

namespace Sys2Proof.Machine

@[simp] theorem gate_true (x : Byte) : gate true x = x := rfl

@[simp] theorem gate_false (x : Byte) : gate false x = 0#8 := rfl

theorem gfmul_zero (a : Byte) : gfmul a 0#8 = 0#8 := by
  simp [gfmul_eq_sum]

@[simp] theorem xtime_zero : xtime 0#8 = 0#8 := by decide

theorem xtime_gate (bit : Bool) (x : Byte) : xtime (gate bit x) = gate bit (xtime x) := by
  cases bit
  · exact xtime_zero
  · rfl

/-- A property of 0 and 1 that `xtime` and xor keep is one of every byte: a byte is the sum of the powers of x at its
bits (R60). -/
theorem byte_induction {P : Byte → Prop} (zero : P 0#8) (one : P 1#8) (double : ∀ b, P b → P (xtime b))
    (add : ∀ b c, P b → P c → P (b ^^^ c)) (b : Byte) : P b := by
  have power (n : Nat) : P (xtime^[n] 1#8) := by
    induction n with
    | zero => exact one
    | succ n ih => exact Function.iterate_succ_apply' xtime n 1 ▸ double _ ih
  have term (i : Nat) : P (gate (b.getLsbD i) (xtime^[i] 1#8)) := by
    cases b.getLsbD i
    · exact zero
    · exact power i
  rw [← one_gfmul b, gfmul_eq_sum]
  exact add _ _ (add _ _ (add _ _ (add _ _ (add _ _ (add _ _ (add _ _ (term 0) (term 1)) (term 2)) (term 3)) (term 4))
    (term 5)) (term 6)) (term 7)

theorem zero_gfmul (b : Byte) : gfmul 0#8 b = 0#8 := by
  simpa using gfmul_add_left 0#8 0#8 b

/-- A factor x in front goes through the product. -/
theorem xtime_gfmul (a b : Byte) : gfmul (xtime a) b = xtime (gfmul a b) := by
  simp only [gfmul_eq_sum, xtime_add, xtime_gate, ← Function.iterate_succ_apply, ← Function.iterate_succ_apply' xtime]

/-- A factor x behind goes through the product. -/
theorem gfmul_xtime (a b : Byte) : gfmul a (xtime b) = xtime (gfmul a b) := by
  induction a using byte_induction with
  | zero => simp [zero_gfmul]
  | one => simp only [one_gfmul]
  | double a ih => rw [xtime_gfmul, xtime_gfmul, ih]
  | add a c iha ihc => rw [gfmul_add_left, gfmul_add_left, xtime_add, iha, ihc]

theorem gfmul_comm (a b : Byte) : gfmul a b = gfmul b a := by
  induction b using byte_induction with
  | zero => rw [gfmul_zero, zero_gfmul]
  | one => rw [gfmul_one, one_gfmul]
  | double b ih => rw [gfmul_xtime, xtime_gfmul, ih]
  | add b c ihb ihc => rw [gfmul_add_right, gfmul_add_left, ihb, ihc]

theorem gfmul_assoc (a b c : Byte) : gfmul (gfmul a b) c = gfmul a (gfmul b c) := by
  induction a using byte_induction with
  | zero => simp only [zero_gfmul]
  | one => simp only [one_gfmul]
  | double a ih => simp only [xtime_gfmul, ih]
  | add a d iha ihd => simp only [gfmul_add_left, iha, ihd]

theorem gfmul_two (a : Byte) : gfmul a 0x02#8 = xtime a := by
  rw [show 0x02#8 = xtime 1#8 by decide, gfmul_xtime, gfmul_one]

theorem gfmul_three (a : Byte) : gfmul a 0x03#8 = xtime a ^^^ a := by
  rw [show 0x03#8 = 0x02#8 ^^^ 1#8 by decide, gfmul_add_right, gfmul_two, gfmul_one]

/-- The byte that R64's affine map takes to `y`. -/
def affinePreimage (y : Byte) : Byte := y.rotateLeft 1 ^^^ y.rotateLeft 3 ^^^ y.rotateLeft 6 ^^^ 0x05#8

theorem sboxAffine_affinePreimage : ∀ y : Byte, sboxAffine (affinePreimage y) = y := by decide +kernel

/-- The inverse of a byte, as the listing of SBOX holds it under the affine map (R64). -/
def gfInverse (a : Byte) : Byte := affinePreimage (sboxAt a)

@[simp] theorem gfInverse_zero : gfInverse 0#8 = 0#8 := rfl

/-- The listing of SBOX is a certificate that every nonzero byte has an inverse: each entry is checked by its product
(R61, R64). -/
theorem gfmul_gfInverse : ∀ a : Byte, a ≠ 0#8 → gfmul a (gfInverse a) = 1#8 := by decide +kernel

/-- A nonzero factor cancels (R61). -/
theorem gfmul_left_cancel {a b c : Byte} (ha : a ≠ 0#8) (h : gfmul a b = gfmul a c) : b = c := by
  have undo (d : Byte) : gfmul (gfInverse a) (gfmul a d) = d := by
    rw [← gfmul_assoc, gfmul_comm (gfInverse a), gfmul_gfInverse a ha, one_gfmul]
  rw [← undo b, h, undo c]

/-- Settles O24: the laws follow by induction over a factor, and a nonzero factor has an inverse and cancels. -/
theorem gfmulFieldLaws : Obligations.GfmulFieldLaws := by
  refine ⟨gfmul_comm, fun a b c => (gfmul_assoc a b c).symm, gfmul_add_right,
    fun a => ⟨gfmul_zero a, gfmul_one a, gfmul_two a, gfmul_three a⟩, fun a b h => ?_, fun a ha => ?_⟩
  · by_contra! hne
    obtain ⟨ha, hb⟩ := hne
    exact hb (gfmul_left_cancel ha (h.trans (gfmul_zero a).symm))
  · exact ⟨gfInverse a, gfmul_gfInverse a ha,
      fun c hc => gfmul_left_cancel ha (hc.trans (gfmul_gfInverse a ha).symm)⟩

end Sys2Proof.Machine
end

section
/-! PROOFS. The product as a remainder (R60): a 16-bit polynomial reduced modulo x^8+x^4+x^3+x+1, shift by shift. -/

open Sys2Proof.Reference

namespace Sys2Proof.Machine

/-- The carry-less product with 0x11B, a shift for each of its bits. -/
theorem clmul_modulus (q : BitVec 16) :
    clmul q 0x011B#16 = q ^^^ q <<< 1 ^^^ q <<< 3 ^^^ q <<< 4 ^^^ q <<< 8 := by
  have h : List.range 16 = [0, 1, 2, 3, 4, 5, 6, 7, 8, 9, 10, 11, 12, 13, 14, 15] := rfl
  simp [clmul, h]

theorem clmul_modulus_add (q q' : BitVec 16) :
    clmul (q ^^^ q') 0x011B#16 = clmul q 0x011B#16 ^^^ clmul q' 0x011B#16 := by
  simp only [clmul_modulus, BitVec.shiftLeft_xor_distrib]
  ac_rfl

theorem clmul_modulus_shiftLeft (q : BitVec 16) : clmul (q <<< 1) 0x011B#16 = clmul q 0x011B#16 <<< 1 := by
  simp only [clmul_modulus, BitVec.shiftLeft_xor_distrib, ← BitVec.shiftLeft_add, Nat.add_comm]

/-- `x` is `q` times 0x11B plus `r`, the degree of the quotient `q` being less than `n`. -/
def Reduces (n : Nat) (x : BitVec 16) (r : Byte) : Prop :=
  ∃ q : BitVec 16, q.toNat < 2 ^ n ∧ x = clmul q 0x011B#16 ^^^ r.setWidth 16

theorem Reduces.mono {m n : Nat} {x : BitVec 16} {r : Byte} (h : Reduces m x r) (hmn : m ≤ n) : Reduces n x r := by
  obtain ⟨q, hq, hx⟩ := h
  exact ⟨q, hq.trans_le (Nat.pow_le_pow_right (by decide) hmn), hx⟩

/-- A byte is its own remainder. -/
theorem Reduces.self (r : Byte) : Reduces 0 (r.setWidth 16) r := ⟨0, by decide, by simp [clmul_modulus]⟩

/-- The remainder of a sum is the sum of the remainders. -/
theorem Reduces.add {n : Nat} {x y : BitVec 16} {r t : Byte} (hx : Reduces n x r) (hy : Reduces n y t) :
    Reduces n (x ^^^ y) (r ^^^ t) := by
  obtain ⟨q, hq, rfl⟩ := hx
  obtain ⟨q', hq', rfl⟩ := hy
  refine ⟨q ^^^ q', ?_, ?_⟩
  · rw [BitVec.toNat_xor]
    exact Nat.xor_lt_two_pow hq hq'
  · rw [clmul_modulus_add, BitVec.setWidth_xor]
    ac_rfl

/-- `xtime` reduces a shifted byte: it takes 0x11B away where bit 7 was set (R59). -/
theorem reduces_shiftLeft_byte : ∀ r : Byte, (r.setWidth 16 : BitVec 16) <<< 1 =
    clmul (if r.getLsbD 7 then 1 else 0) 0x011B#16 ^^^ (xtime r).setWidth 16 := by
  decide +kernel

/-- The remainder of a shifted polynomial is `xtime` of the remainder. -/
theorem Reduces.shiftLeft {n : Nat} {x : BitVec 16} {r : Byte} (h : Reduces n x r) :
    Reduces (n + 1) (x <<< 1) (xtime r) := by
  obtain ⟨q, hq, rfl⟩ := h
  refine ⟨q <<< 1 ^^^ (if r.getLsbD 7 then 1 else 0), ?_, ?_⟩
  · rw [BitVec.toNat_xor]
    apply Nat.xor_lt_two_pow
    · rw [BitVec.toNat_shiftLeft, Nat.shiftLeft_eq]
      omega
    · split <;> simp
  · rw [BitVec.shiftLeft_xor_distrib, reduces_shiftLeft_byte, clmul_modulus_add, clmul_modulus_shiftLeft]
    ac_rfl

/-- `xtime^i(a)` is the remainder of `a · x^i`. -/
theorem reduces_iterate_xtime (a : Byte) (i : Nat) : Reduces i (a.setWidth 16 <<< i) (xtime^[i] a) := by
  induction i with
  | zero => simpa using Reduces.self a
  | succ i ih =>
    rw [BitVec.shiftLeft_add, Function.iterate_succ_apply']
    exact ih.shiftLeft

/-- The sum of the `a · x^i` for the set bits `i` of `b` below `n`, not reduced. -/
def clmulUpTo (a b : Byte) (n : Nat) : BitVec 16 :=
  (List.range n).foldl (fun p i => if b.getLsbD i then p ^^^ (a.setWidth 16 <<< i) else p) 0

/-- The sum of the `xtime^i(a)` for the set bits `i` of `b` below `n`. -/
def gfmulUpTo (a b : Byte) (n : Nat) : Byte :=
  (List.range n).foldl (fun p i => if b.getLsbD i then p ^^^ xtime^[i] a else p) 0

theorem clmulUpTo_succ (a b : Byte) (n : Nat) :
    clmulUpTo a b (n + 1) = if b.getLsbD n then clmulUpTo a b n ^^^ (a.setWidth 16 <<< n) else clmulUpTo a b n := by
  simp [clmulUpTo, List.range_succ]

theorem gfmulUpTo_succ (a b : Byte) (n : Nat) :
    gfmulUpTo a b (n + 1) = if b.getLsbD n then gfmulUpTo a b n ^^^ xtime^[n] a else gfmulUpTo a b n := by
  simp [gfmulUpTo, List.range_succ]

/-- The bits of a byte past the eighth add nothing to the carry-less product. -/
theorem clmul_eq_clmulUpTo (a b : Byte) : clmul (a.setWidth 16) (b.setWidth 16) = clmulUpTo a b 8 := by
  have h : List.range 16 = List.range 8 ++ [8, 9, 10, 11, 12, 13, 14, 15] := rfl
  have h8 : List.range 8 = [0, 1, 2, 3, 4, 5, 6, 7] := rfl
  simp [clmul, clmulUpTo, h, h8]

/-- After `n` turns R60's loop holds the sum so far and `xtime^n(a)`. -/
theorem foldl_gfmulTurn (a b : Byte) (n : Nat) :
    (List.range n).foldl (gfmulTurn b) (0x00#8, a) = (gfmulUpTo a b n, xtime^[n] a) := by
  induction n with
  | zero => rfl
  | succ n ih =>
    rw [List.range_succ, List.foldl_append, ih, gfmulUpTo_succ, Function.iterate_succ_apply']
    rfl

theorem gfmul_eq_gfmulUpTo (a b : Byte) : gfmul a b = gfmulUpTo a b 8 := congrArg Prod.fst (foldl_gfmulTurn a b 8)

/-- The reduced sum is the remainder of the sum that is not. -/
theorem reduces_clmulUpTo (a b : Byte) {n : Nat} (hn : n ≤ 8) : Reduces 7 (clmulUpTo a b n) (gfmulUpTo a b n) := by
  induction n with
  | zero => exact (Reduces.self 0).mono (by decide)
  | succ n ih =>
    rw [clmulUpTo_succ, gfmulUpTo_succ]
    split
    · exact (ih (by omega)).add ((reduces_iterate_xtime a n).mono (by omega))
    · exact ih (by omega)

/-- Settles O23: the reduced sum is the product, and the sum that is not reduced is the carry-less product. -/
theorem gfmulIsTheRemainderModulo11B : Obligations.GfmulIsTheRemainderModulo11B := by
  intro a b
  refine ⟨gfmul_eq_gfmulUpTo a b, ?_⟩
  obtain ⟨q, hq, h⟩ := reduces_clmulUpTo a b le_rfl
  have fits : (q.setWidth 7).setWidth 16 = q :=
    BitVec.eq_of_toNat_eq (by simp only [BitVec.toNat_setWidth]; omega)
  exact ⟨q.setWidth 7, by rw [fits, clmul_eq_clmulUpTo, h, gfmul_eq_gfmulUpTo]⟩

end Sys2Proof.Machine
end

section
/-! PROOFS. The tables and the commands of the helper units: SBOX as a closed form and as a permutation (R63, R64, R67),
the round constants (R69), and the whole effect of GFMUL, SBOX and INVSBOX (R62, R65, R68). -/

open Sys2Proof.Reference

namespace Sys2Proof.Machine

/-- Every entry of the listing is the affine map of the inverse, 0 standing for the inverse of 0 (R64). -/
theorem sboxAt_eq_affine (x : Byte) : sboxAt x = sboxAffine (gfInverse x) :=
  (sboxAffine_affinePreimage (sboxAt x)).symm

/-- Settles O25: the inverse of 0 is 0, and that of another byte is its only inverse. -/
theorem sboxIsTheClosedForm : Obligations.SboxIsTheClosedForm := by
  intro x
  refine ⟨gfInverse x, ?_, gfmul_gfInverse x, fun c hx hc => ?_, sboxAt_eq_affine x⟩
  · rintro rfl
    exact gfInverse_zero
  · exact gfmul_left_cancel hx (hc.trans (gfmul_gfInverse x hx).symm)

/-- INVSBOX undoes SBOX (R67). -/
theorem invSboxAt_sboxAt : ∀ x : Byte, invSboxAt (sboxAt x) = x := by decide +kernel

/-- SBOX undoes INVSBOX: injective on the finitely many bytes, SBOX reaches them all (R67). -/
theorem sboxAt_invSboxAt : ∀ x : Byte, sboxAt (invSboxAt x) = x :=
  Function.LeftInverse.rightInverse_of_surjective invSboxAt_sboxAt
    (Finite.surjective_of_injective (Function.LeftInverse.injective invSboxAt_sboxAt))

/-- SBOX has no fixed and no opposite fixed point (R63). -/
theorem sboxAt_ne_self_or_complement : ∀ x : Byte, sboxAt x ≠ x ∧ sboxAt x ≠ x ^^^ 0xFF#8 := by decide +kernel

/-- Settles O26: a table with an inverse on both sides is a permutation. -/
theorem invsboxInvertsSbox : Obligations.InvsboxInvertsSbox := by
  refine ⟨fun x => ⟨invSboxAt_sboxAt x, sboxAt_invSboxAt x⟩, fun y => ?_, sboxAt_ne_self_or_complement⟩
  refine ⟨invSboxAt y, sboxAt_invSboxAt y, ?_⟩
  rintro x rfl
  exact (invSboxAt_sboxAt x).symm

/-- Settles O27: the ten constants one after another, and the bytes of a word made of four. -/
theorem roundConstantsArePowersOfX : Obligations.RoundConstantsArePowersOfX := by
  refine ⟨rfl, fun i hi hi' => ?_, fun i => ?_⟩
  · interval_cases i <;> decide
  · obtain ⟨b0, b1, b2, b3⟩ := wordByte_wordOf (rconAt i) 0 0 0
    refine ⟨b0, fun k hk hk' => ?_⟩
    interval_cases k
    · exact b1
    · exact b2
    · exact b3

/-- Settles O20: GFMUL ends in a byte result, and the word of the rule is its encoding. -/
theorem gfmulCommandWritesTheProduct : Obligations.GfmulCommandWritesTheProduct :=
  ⟨fun _ _ _ => rfl, fun a => ⟨gfmul_zero a, zero_gfmul a, gfmul_one a⟩, by decide, by decide,
    decode_encode (i := .gfmul 0x57 0x83) rfl⟩

/-- Settles O21: SBOX ends in a byte result, and the word of the rule is its encoding. -/
theorem sboxCommandWritesTheEntry : Obligations.SboxCommandWritesTheEntry :=
  fun _ _ => ⟨rfl, rfl, rfl, decode_encode (i := .sbox 0x53) rfl⟩

/-- Settles O22: INVSBOX ends in a byte result, and the word of the rule is its encoding. -/
theorem invsboxCommandWritesTheEntry : Obligations.InvsboxCommandWritesTheEntry :=
  fun _ _ => ⟨rfl, rfl, rfl, rfl, decode_encode (i := .invsbox 0xED) rfl⟩

end Sys2Proof.Machine
end

section
/-! PROOFS. The key schedule word by word (R70, R75, R76). -/

namespace Sys2Proof.Machine

/-- Byte `k` of SubWord is SBOX of byte `k` (R70). -/
theorem wordByte_subWord (w : Word) {k : Nat} (hk : k < 4) : wordByte (subWord w) k = sboxAt (wordByte w k) :=
  wordByte_wordOf_of_lt (fun k => sboxAt (wordByte w k)) hk

/-- The key's words are the front of its schedule (R75). -/
theorem map_keyWord_isPrefix_keyExpansion (key : List Byte) :
    (List.range (key.length / 4)).map (keyWord key) <+: keyExpansion key :=
  extendSchedule_prefix _ _ _

/-- The first `Nk` words of a schedule are the key's (R75). -/
theorem keyExpansion_getElem?_front (key : List Byte) {i : Nat} (hi : i < key.length / 4) :
    (keyExpansion key)[i]? = some (keyWord key i) := by
  obtain ⟨later, h⟩ := map_keyWord_isPrefix_keyExpansion key
  rw [← h, List.getElem?_append_left (by simpa using hi)]
  simp [hi]

/-- Byte `k` of word `i` of the key is the key's byte `4i + k` (R75). -/
theorem wordByte_keyWord_getElem? (key : List Byte) {i k : Nat} (hi : i < key.length / 4) (hk : k < 4) :
    some (wordByte (keyWord key i) k) = key[4 * i + k]? := by
  have byte := wordByte_keyWord key (4 * i + k)
  rw [show (4 * i + k) / 4 = i by omega, show (4 * i + k) % 4 = k by omega] at byte
  rw [byte, List.getD_eq_getElem _ _ (by omega), List.getElem?_eq_getElem]

/-- Every later word of a schedule is made of the words before it (R76). -/
theorem keyExpansion_getElem?_next (key : List Byte) {i : Nat} (lo : key.length / 4 ≤ i)
    (hi : i < scheduleLength key.length) :
    (keyExpansion key)[i]? = some (nextWord (key.length / 4) ((keyExpansion key).take i)) :=
  extendSchedule_getElem? _ _ _ i (by simpa [keyWordCount] using lo)
    (by simp only [List.length_map, List.length_range, keyWordCount, scheduleLength_eq] at hi ⊢; omega)

/-- The loop body of R76, on the first `i` words of a list, in terms of its words `i - 1` and `i - Nk`. -/
theorem nextWord_take {nk i : Nat} {w : List Word} {prev back : Word} (nk_pos : 0 < nk) (lo : nk ≤ i)
    (hi : i ≤ w.length) (hprev : w[i - 1]? = some prev) (hback : w[i - nk]? = some back) :
    nextWord nk (w.take i) = back ^^^
      (if i % nk = 0 then subWord (rotWord prev) ^^^ rconWord (i / nk)
        else if nk = 8 ∧ i % nk = 4 then subWord prev else prev) := by
  have before (j : Nat) (hj : j < i) : (w.take i).getD j 0 = w[j]?.getD 0 := by
    rw [List.getD_eq_getElem?_getD, List.getElem?_take_of_lt hj]
  simp only [nextWord, List.length_take_of_le hi, before (i - 1) (by omega), before (i - nk) (by omega), hprev, hback,
    Option.getD_some]

/-- Settles O28: the front of the schedule is the key, and each later word is the loop body's. -/
theorem keyExpansionRecurrence : Obligations.KeyExpansionRecurrence := by
  constructor
  · intro w
    obtain ⟨b0, b1, b2, b3⟩ := wordByte_wordOf (wordByte w 1) (wordByte w 2) (wordByte w 3) (wordByte w 0)
    exact ⟨b0, b1, b2, b3, fun k => wordByte_subWord w⟩
  intro key hkey nk nr w
  have length : w.length = scheduleLength key.length := keyExpansion_length key
  rw [scheduleLength_eq] at length
  refine ⟨by omega, by omega, by omega, by omega, fun i hi k hk => ?_, fun i lo hi => ?_⟩
  · exact ⟨_, keyExpansion_getElem?_front key hi, wordByte_keyWord_getElem? key hi hk⟩
  · have hprev : w[i - 1]? = some w[i - 1] := List.getElem?_eq_getElem (by omega)
    have hback : w[i - nk]? = some w[i - nk] := List.getElem?_eq_getElem (by omega)
    have next := keyExpansion_getElem?_next key lo (by rw [scheduleLength_eq]; omega)
    rw [nextWord_take (by omega) lo (by omega) hprev hback] at next
    refine ⟨_, _, _, hprev, hback, next, fun rot => ?_, fun noRot long sub => ?_, fun noRot noSub => ?_⟩
    · rw [if_pos rot]
    · rw [if_neg noRot, if_pos ⟨long, sub⟩]
    · rw [if_neg noRot, if_neg noSub]

end Sys2Proof.Machine
end

section
/-! PROOFS. KEYEXP as a command: the context it makes written out, its two errors, the slot it leaves (R78 to R81). -/

open Sys2Proof.Reference

namespace Sys2Proof.Machine

/-- An error outside the misuse class writes ERR and nothing else (R113, R120). -/
theorem State.raise_recoverable (s : State) {e : Err} (he : e.isMisuse = false) :
    s.raise e = { s with err := e.code } := by
  simp [State.raise, misuseAfter, he]

/-- A new context of a key of `klen` bytes: its round count, the schedule, and zero past the schedule (R7, R80). -/
theorem newContext_eq {key : List Byte} {klen : Nat} (len : key.length = klen) :
    newContext key =
      { valid := true, nr := BitVec.ofNat 4 (klen / 4 + 6),
        rk := Vector.ofFn fun j : Fin 60 =>
          if j.val < 4 * (klen / 4 + 6 + 1) then (keyExpansion key).getD j.val 0 else 0 } := by
  subst len
  refine congrArg (Slot.mk true _) (congrArg Vector.ofFn (funext fun j => ?_))
  split
  · rfl
  · next past => exact List.getD_eq_default _ _ ((keyExpansion_length key).trans_le (Nat.le_of_not_lt past))

/-- KEYEXP of an accepted length with a free slot makes a context of the key in the lowest one (R79, R80). -/
theorem exec_keyexp_created {klen h : Nat} {s : State} (hk : validKeyLength klen) (hl : LowestFree s h) :
    exec (.keyexp klen) s = .next ((s.setSlot h (newContext (s.keyBytes klen))).setRes (handleWord h)).done :=
  (ExecResult.created hk (lowestFree?_eq_some.mpr hl)).exec_eq

/-- The slot that KEYEXP takes holds the context of the key afterwards (R80). -/
theorem getElem?_ctx_of_exec_keyexp {klen h : Nat} {s t : State} (hk : validKeyLength klen) (hl : LowestFree s h)
    (ht : exec (.keyexp klen) s = .next t) : t.ctx[h]? = some (newContext (s.keyBytes klen)) := by
  obtain ⟨⟨_, free, -⟩, -⟩ := id hl
  have inside : h < s.ctx.length := (List.getElem?_eq_some_iff.mp free).1
  have created := (exec_keyexp_created hk hl).symm.trans ht
  injection created with created
  simp [← created, inside]

/-- The first two round keys of the all-zero key of 16 bytes (R80). -/
theorem keyExpansion_zeros_take : (keyExpansion (List.replicate 16 0)).take 8 =
    List.replicate 4 0x00000000#32 ++ List.replicate 4 0x62636363#32 := by decide +kernel

/-- The last round key of the all-zero key of 16 bytes (R80). -/
theorem keyExpansion_zeros_drop : (keyExpansion (List.replicate 16 0)).drop 40 =
    [0xB4EF5BCB#32, 0x3E92E211#32, 0x23E951CF#32, 0x6F8F188E#32] := by decide +kernel

/-- Settles O29: neither error of KEYEXP is of the misuse class, and a new context is zero past its schedule. -/
theorem keyexpCommand : Obligations.KeyexpCommand := by
  intro klen s
  refine ⟨fun not16 not24 not32 => ?_, fun hk full => ?_, keyExpansion_zeros_take, keyExpansion_zeros_drop, ?_⟩
  · have bad : ¬ validKeyLength klen := by omega
    rw [(ExecResult.badLength bad).exec_eq, State.raise_recoverable s rfl]
    rfl
  · rw [(ExecResult.noFree hk (lowestFree?_eq_none.mpr full)).exec_eq, State.raise_recoverable s rfl]
    rfl
  · intro h hk hl w nr
    have len : (s.keyBytes klen).length = klen := s.keyBytes_length hk
    refine ⟨(keyExpansion_length _).trans (congrArg scheduleLength len), ?_⟩
    rw [exec_keyexp_created hk hl, newContext_eq len]
    rfl

/-- Settles O30: KEYEXP keeps KEY, so the second one expands the same key, and it takes a slot that was free where the
first one's is live. -/
theorem sameKeyGivesSameContext : Obligations.SameKeyGivesSameContext := by
  intro klen s t u h h' hk hl ht hl' hu
  obtain ⟨-, -, key, -⟩ := (exec_cases ht).kept
  obtain ⟨-, -, key', -⟩ := (exec_cases hu).kept
  have first : t.ctx[h]? = some (newContext (s.keyBytes klen)) := getElem?_ctx_of_exec_keyexp hk hl ht
  have second : u.ctx[h']? = some (newContext (t.keyBytes klen)) := getElem?_ctx_of_exec_keyexp hk hl' hu
  have sameKey : t.keyBytes klen = s.keyBytes klen := by rw [State.keyBytes, key, State.keyBytes]
  refine ⟨(lowestFree_ne hl' ⟨_, first, newContext_valid _⟩).symm, key'.trans key,
    newContext (s.keyBytes klen), newContext_valid _, ?_, ?_⟩
  · exact (exec_cases hu).live_slot_eq first (newContext_valid _) (by simp)
  · rw [second, sameKey]

end Sys2Proof.Machine
end

section
/-! PROOFS. The steps of a round (R86 to R89, R95 to R97): each byte by byte, and each undone by its partner. A column
step is a circulant matrix, and the product of two circulant matrices is one. -/

open Sys2Proof.Reference

namespace Sys2Proof.Machine

/-- Byte `i` of a block stands in row `i % 4`, column `i / 4` (R11). -/
theorem getElem?_eq_stateByte (s : Block) {i : Nat} (h : i < 16) : s[i]? = some (stateByte s (i % 4) (i / 4)) := by
  rw [Vector.getElem?_eq_getElem h, getElem_eq_stateByte s i h]

/-- Row `r`, column `c` of a block is its byte `r + 4c` (R11). -/
theorem getElem?_row_col (s : Block) {r c : Nat} (hr : r < 4) (hc : c < 4) : s[r + 4 * c]? = some (stateByte s r c) := by
  rw [getElem?_eq_stateByte s (by omega), show (r + 4 * c) % 4 = r by omega, show (r + 4 * c) / 4 = c by omega]

/-- Row numbers count modulo 4. -/
theorem stateByte_add_four (s : Block) (r c : Nat) : stateByte s (r + 4) c = stateByte s r c := by
  rw [← stateByte_mod, Nat.add_mod_right, stateByte_mod]

/-- Column numbers count modulo 4. -/
theorem stateByte_col_add_four (s : Block) (r c : Nat) : stateByte s r (c + 4) = stateByte s r c := by
  rw [← stateByte_mod, Nat.add_mod_right, stateByte_mod]

/-- The four bytes of a column times the circulant matrix with first row `m0 m1 m2 m3` (R89, R97). -/
theorem getElem?_mulColumns (m0 m1 m2 m3 : Byte) {s : Block} {c : Nat} {a0 a1 a2 a3 : Byte} (hc : c < 4)
    (h0 : s[4 * c]? = some a0) (h1 : s[4 * c + 1]? = some a1) (h2 : s[4 * c + 2]? = some a2)
    (h3 : s[4 * c + 3]? = some a3) :
    (mulColumns m0 m1 m2 m3 s)[4 * c]? = some (gfmul m0 a0 ^^^ gfmul m1 a1 ^^^ gfmul m2 a2 ^^^ gfmul m3 a3) ∧
    (mulColumns m0 m1 m2 m3 s)[4 * c + 1]? = some (gfmul m3 a0 ^^^ gfmul m0 a1 ^^^ gfmul m1 a2 ^^^ gfmul m2 a3) ∧
    (mulColumns m0 m1 m2 m3 s)[4 * c + 2]? = some (gfmul m2 a0 ^^^ gfmul m3 a1 ^^^ gfmul m0 a2 ^^^ gfmul m1 a3) ∧
    (mulColumns m0 m1 m2 m3 s)[4 * c + 3]? = some (gfmul m1 a0 ^^^ gfmul m2 a1 ^^^ gfmul m3 a2 ^^^ gfmul m0 a3) := by
  have row (t : Block) (k : Nat) (hk : k < 4) : t[4 * c + k]? = some (stateByte t k c) :=
    Nat.add_comm k _ ▸ getElem?_row_col t hk hc
  have row0 (t : Block) : t[4 * c]? = some (stateByte t 0 c) := row t 0 (by decide)
  simp only [row0, row _ 1, row _ 2, row _ 3, Nat.reduceLT, Option.some.injEq] at h0 h1 h2 h3 ⊢
  subst h0 h1 h2 h3
  simp only [stateByte_mulColumns, Nat.reduceAdd, Nat.zero_add, stateByte_add_four]
  exact ⟨trivial, by ac_rfl, by ac_rfl, by ac_rfl⟩

/-- One circulant matrix after another is the circulant matrix whose first row is the cyclic product of the two. -/
theorem mulColumns_mulColumns (n0 n1 n2 n3 m0 m1 m2 m3 : Byte) (s : Block) :
    mulColumns n0 n1 n2 n3 (mulColumns m0 m1 m2 m3 s) =
      mulColumns (gfmul n0 m0 ^^^ gfmul n1 m3 ^^^ gfmul n2 m2 ^^^ gfmul n3 m1)
        (gfmul n0 m1 ^^^ gfmul n1 m0 ^^^ gfmul n2 m3 ^^^ gfmul n3 m2)
        (gfmul n0 m2 ^^^ gfmul n1 m1 ^^^ gfmul n2 m0 ^^^ gfmul n3 m3)
        (gfmul n0 m3 ^^^ gfmul n1 m2 ^^^ gfmul n2 m1 ^^^ gfmul n3 m0) s := by
  refine block_ext fun r c _ _ => ?_
  simp only [stateByte_mulColumns, Nat.add_assoc, Nat.reduceAdd, stateByte_add_four,
    gfmul_add_left, gfmul_add_right, gfmul_assoc]
  ac_rfl

/-- The circulant matrix with first row `01 00 00 00` is the unit matrix. -/
theorem mulColumns_unit (s : Block) : mulColumns 0x01#8 0x00#8 0x00#8 0x00#8 s = s := by
  refine block_ext fun r c _ _ => ?_
  simp only [stateByte_mulColumns, one_gfmul, zero_gfmul, BitVec.xor_zero]

/-- InvMixColumns undoes MixColumns: the product of the two matrices is the unit matrix (R97). -/
@[simp] theorem invMixColumns_mixColumns (s : Block) : invMixColumns (mixColumns s) = s := by
  rw [invMixColumns, mixColumns, mulColumns_mulColumns]
  exact mulColumns_unit s

/-- MixColumns undoes InvMixColumns: circulant matrices commute (R97). -/
@[simp] theorem mixColumns_invMixColumns (s : Block) : mixColumns (invMixColumns s) = s := by
  rw [invMixColumns, mixColumns, mulColumns_mulColumns]
  exact mulColumns_unit s

@[simp] theorem invSubBytes_subBytes (s : Block) : invSubBytes (subBytes s) = s :=
  block_ext fun r c _ _ => by rw [stateByte_invSubBytes, stateByte_subBytes, invSboxAt_sboxAt]

@[simp] theorem subBytes_invSubBytes (s : Block) : subBytes (invSubBytes s) = s :=
  block_ext fun r c _ _ => by rw [stateByte_subBytes, stateByte_invSubBytes, sboxAt_invSboxAt]

@[simp] theorem invShiftRows_shiftRows (s : Block) : invShiftRows (shiftRows s) = s := by
  refine block_ext fun r c hr _ => ?_
  rw [stateByte_invShiftRows _ _ _ hr, stateByte_shiftRows, show c + 4 - r + r = c + 4 by omega,
    stateByte_col_add_four]

@[simp] theorem shiftRows_invShiftRows (s : Block) : shiftRows (invShiftRows s) = s := by
  refine block_ext fun r c hr _ => ?_
  rw [stateByte_shiftRows, stateByte_invShiftRows _ _ _ hr, show c + r + 4 - r = c + 4 by omega,
    stateByte_col_add_four]

@[simp] theorem addRoundKey_addRoundKey (s : Block) (rk : Nat → Word) (r : Nat) :
    addRoundKey (addRoundKey s rk r) rk r = s := by
  refine block_ext fun row col hr hc => ?_
  rw [stateByte_addRoundKey _ _ _ _ _ hr hc, stateByte_addRoundKey _ _ _ _ _ hr hc, BitVec.xor_assoc, BitVec.xor_self,
    BitVec.xor_zero]

/-- Settles O31: a step's byte is read off in its row and column. -/
theorem forwardStepsByteByByte : Obligations.ForwardStepsByteByByte := by
  intro s
  refine ⟨fun rk r i hi => ?_, fun i => ?_, fun r c hr hc => ?_, fun c a0 a1 a2 a3 hc h0 h1 h2 h3 => ?_⟩
  · rw [getElem?_eq_stateByte _ hi, getElem?_eq_stateByte s hi, Option.map_some,
      stateByte_addRoundKey _ _ _ _ _ (by omega) (by omega)]
  · exact Vector.getElem?_map
  · rw [getElem?_row_col _ hr hc, stateByte_shiftRows, getElem?_row_col s hr (by omega), ← stateByte_mod s r (c + r),
      Nat.mod_eq_of_lt hr]
  · have column := getElem?_mulColumns 0x02#8 0x03#8 0x01#8 0x01#8 hc h0 h1 h2 h3
    simp only [one_gfmul] at column
    exact column

/-- Settles O32: an inverse step's byte is read off in its row and column, and each step has its partner's inverse. -/
theorem inverseStepsUndoForwardSteps : Obligations.InverseStepsUndoForwardSteps := by
  intro s
  refine ⟨fun i => Vector.getElem?_map, fun r c hr hc => ?_, fun c a0 a1 a2 a3 hc h0 h1 h2 h3 => ?_,
    invSubBytes_subBytes s, invShiftRows_shiftRows s, invMixColumns_mixColumns s, addRoundKey_addRoundKey s⟩
  · rw [getElem?_row_col _ hr hc, stateByte_invShiftRows _ _ _ hr, getElem?_row_col s hr (by omega),
      ← stateByte_mod s r (c + 4 - r), Nat.mod_eq_of_lt hr]
  · exact getElem?_mulColumns 0x0E#8 0x0B#8 0x0D#8 0x09#8 hc h0 h1 h2 h3

end Sys2Proof.Machine
end

section
/-! PROOFS. Cipher and InvCipher as sequences of rounds (R93, R99), each undoing the other (R101), and the mirrored
arrangement (R98). Round by round, `invRound` takes back what `fullRound` did, with the table and shift steps of the
next round standing in front. -/

open Sys2Proof.Reference

namespace Sys2Proof.Machine

/-! ### The states between the rounds -/

/-- The state after round `r` of Cipher, for `r < Nr` (R93). -/
def roundState (b : Block) (rk : Nat → Word) (r : Nat) : Block :=
  (List.range' 1 r).foldl (fullRound rk) (addRoundKey b rk 0)

theorem roundState_succ (b : Block) (rk : Nat → Word) (r : Nat) :
    roundState b rk (r + 1) = fullRound rk (roundState b rk r) (r + 1) := by
  rw [roundState, List.range'_1_concat, List.foldl_concat, Nat.add_comm 1 r, roundState]

theorem cipher_eq_finalRound (b : Block) (rk : Nat → Word) (nr : Nat) :
    cipher b rk nr = finalRound rk (roundState b rk (nr - 1)) nr := rfl

/-- The state after round `r` of InvCipher, whose rounds count down from `Nr`, for `1 ≤ r` (R99). -/
def invRoundState (b : Block) (rk : Nat → Word) (nr r : Nat) : Block :=
  (List.range' r (nr - r)).reverse.foldl (invRound rk) (addRoundKey b rk nr)

theorem invRoundState_self (b : Block) (rk : Nat → Word) (nr : Nat) :
    invRoundState b rk nr nr = addRoundKey b rk nr := by
  rw [invRoundState, Nat.sub_self]
  rfl

theorem invRoundState_of_lt (b : Block) (rk : Nat → Word) {nr r : Nat} (h : r < nr) :
    invRoundState b rk nr r = invRound rk (invRoundState b rk nr (r + 1)) r := by
  rw [invRoundState, show nr - r = nr - (r + 1) + 1 by omega, List.range'_succ, List.reverse_cons, List.foldl_concat,
    invRoundState]

theorem invCipher_eq_invFinalRound (b : Block) (rk : Nat → Word) (nr : Nat) :
    invCipher b rk nr = invFinalRound rk (invRoundState b rk nr 1) := rfl

/-- Settles O33: the states between the rounds, with the result of the final round behind them. -/
theorem cipherIsTheSequenceOfRounds : Obligations.CipherIsTheSequenceOfRounds := by
  intro b rk nr pos
  have before {r : Nat} (hr : r < nr) : Function.update (roundState b rk) nr (cipher b rk nr) r = roundState b rk r :=
    Function.update_of_ne hr.ne _ _
  refine ⟨Function.update (roundState b rk) nr (cipher b rk nr), before pos, fun r hr hlt => ?_, ?_, ?_⟩
  · obtain ⟨r, rfl⟩ := Nat.exists_eq_add_of_le' hr
    rw [before hlt, Nat.add_sub_cancel, before (by omega)]
    exact roundState_succ b rk r
  · rw [Function.update_self, before (by omega)]
    exact cipher_eq_finalRound b rk nr
  · rw [Function.update_self]

/-- Settles O34: the states between the rounds, with the result of the final round at 0. -/
theorem invCipherIsTheSequenceOfRounds : Obligations.InvCipherIsTheSequenceOfRounds := by
  intro b rk nr pos
  have before {r : Nat} (hr : 1 ≤ r) :
      Function.update (invRoundState b rk nr) 0 (invCipher b rk nr) r = invRoundState b rk nr r :=
    Function.update_of_ne (by omega) _ _
  refine ⟨Function.update (invRoundState b rk nr) 0 (invCipher b rk nr), ?_, fun r hr hlt => ?_, ?_, ?_⟩
  · rw [before pos]
    exact invRoundState_self b rk nr
  · rw [before hr, before (by omega)]
    exact invRoundState_of_lt b rk hlt
  · rw [Function.update_self, before le_rfl]
    exact invCipher_eq_invFinalRound b rk nr
  · rw [Function.update_self]

/-! ### Each transformation undoes the other -/

/-- If each turn `g` takes `f`'s turn back under `φ`, turns in the reverse order take back a whole run. -/
theorem foldl_reverse_undoes {α β : Type} {f g : β → α → β} {φ : β → β} (undo : ∀ s a, g (φ (f s a)) a = φ s)
    (l : List α) (s : β) : l.reverse.foldl g (φ (l.foldl f s)) = φ s := by
  induction l generalizing s with
  | nil => rfl
  | cons a l ih => rw [List.foldl_cons, List.reverse_cons, List.foldl_concat, ih, undo]

/-- InvCipher undoes Cipher (R101). -/
theorem invCipher_cipher (b : Block) (rk : Nat → Word) (nr : Nat) : invCipher (cipher b rk nr) rk nr = b := by
  have undo (s : Block) (r : Nat) : invRound rk (shiftRows (subBytes (fullRound rk s r))) r = shiftRows (subBytes s) := by
    simp [invRound, fullRound]
  simp only [cipher, finalRound, invCipher, addRoundKey_addRoundKey,
    foldl_reverse_undoes (φ := fun s => shiftRows (subBytes s)) undo]
  simp [invFinalRound]

/-- Cipher undoes InvCipher (R101). -/
theorem cipher_invCipher (b : Block) (rk : Nat → Word) (nr : Nat) : cipher (invCipher b rk nr) rk nr = b := by
  have undo (s : Block) (r : Nat) :
      fullRound rk (invSubBytes (invShiftRows (invRound rk s r))) r = invSubBytes (invShiftRows s) := by
    simp [invRound, fullRound]
  have run := foldl_reverse_undoes (φ := fun s => invSubBytes (invShiftRows s)) undo (List.range' 1 (nr - 1)).reverse
    (addRoundKey b rk nr)
  rw [List.reverse_reverse] at run
  rw [invCipher, invFinalRound, cipher, addRoundKey_addRoundKey, run]
  simp [finalRound]

@[simp] theorem Slot.decrypt_encrypt (slot : Slot) (b : Block) : slot.decrypt (slot.encrypt b) = b :=
  invCipher_cipher b slot.word slot.nr.toNat

/-! ### The mirrored arrangement -/

/-- A table look-up in each byte does not mind where the byte stands (R98). -/
theorem invShiftRows_invSubBytes (s : Block) : invShiftRows (invSubBytes s) = invSubBytes (invShiftRows s) :=
  block_ext fun r c hr _ => by
    rw [stateByte_invShiftRows _ _ _ hr, stateByte_invSubBytes, stateByte_invSubBytes, stateByte_invShiftRows _ _ _ hr]

theorem stateByte_xorBlock (s t : Block) (r c : Nat) :
    stateByte (xorBlock s t) r c = stateByte s r c ^^^ stateByte t r c := by
  simp [stateByte, xorBlock]

theorem stateByte_roundKeyBlock (rk : Nat → Word) (k : Nat) {r c : Nat} (hr : r < 4) (hc : c < 4) :
    stateByte (roundKeyBlock rk k) r c = wordByte (rk (4 * k + c)) r := by
  rw [show roundKeyBlock rk k = blockOf fun r c => wordByte (rk (4 * k + c)) r from rfl, stateByte_blockOf,
    Nat.mod_eq_of_lt hr, Nat.mod_eq_of_lt hc]

/-- AddRoundKey is the xor with the round key as a block (R86). -/
theorem xorBlock_roundKeyBlock (s : Block) (rk : Nat → Word) (r : Nat) :
    xorBlock s (roundKeyBlock rk r) = addRoundKey s rk r :=
  block_ext fun row col hr hc => by
    rw [stateByte_xorBlock, stateByte_roundKeyBlock rk r hr hc, stateByte_addRoundKey _ _ _ _ _ hr hc]

/-- InvMixColumns is linear (R97). -/
theorem xorBlock_invMixColumns (s t : Block) :
    xorBlock (invMixColumns s) (invMixColumns t) = invMixColumns (xorBlock s t) := by
  refine block_ext fun r c _ _ => ?_
  simp only [stateByte_xorBlock, invMixColumns, stateByte_mulColumns, gfmul_add_right]
  ac_rfl

/-- The mirrored arrangement makes the same block turn by turn (R98). -/
theorem mirroredInvCipher_eq_invCipher (b : Block) (rk : Nat → Word) (nr : Nat) :
    mirroredInvCipher b rk nr = invCipher b rk nr := by
  simp only [mirroredInvCipher, xorBlock_invMixColumns, xorBlock_roundKeyBlock, invShiftRows_invSubBytes]
  rfl

/-- Settles O38: InvMixColumns is linear, so it may be applied to the state and the round key one by one. -/
theorem mirroredInverseCipherIsTheSame : Obligations.MirroredInverseCipherIsTheSame :=
  ⟨invShiftRows_invSubBytes, fun b rk nr _ => mirroredInvCipher_eq_invCipher b rk nr⟩

end Sys2Proof.Machine
end

section
/-! PROOFS. ENC and DEC as commands (R94, R100, R102, R103): the error of a handle that names no live slot, the success
on a live one, the examples of the rules, and the round trip in commands (R101). -/

open Sys2Proof.Reference

namespace Sys2Proof.Machine

/-- The error of a handle: code 3 and the misuse flag, and nothing else (R12, R113). -/
theorem State.raise_invalidContext (s : State) : s.raise .invalidContext = { s with err := 3, misuse := true } := by
  simp [State.raise, misuseAfter, Err.code, Err.isMisuse]

/-- ENC, DEC and RELEASE of a handle past the table or of a free slot (R94, R100, R106). -/
theorem exec_of_no_live_slot {i : Instr} {h : Nat} {s : State} (hi : i = .enc h ∨ i = .dec h ∨ i = .release h)
    (dead : s.ctx.length ≤ h ∨ ∃ slot, s.ctx[h]? = some slot ∧ slot.valid = false) :
    exec i s = .next { s with err := 3, misuse := true } := by
  rw [(ExecResult.badContext hi (liveSlot?_eq_none.mpr dead)).exec_eq, State.raise_invalidContext]

section
variable {s : State} {h : Nat} {slot : Slot} (hslot : s.ctx[h]? = some slot) (valid : slot.valid = true)
include hslot valid

/-- ENC on a live slot (R94). -/
theorem exec_enc_of_live : exec (.enc h) s = .next (s.setDout (slot.encrypt s.din)).done :=
  (ExecResult.encrypted (liveSlot?_eq_some.mpr ⟨hslot, valid⟩)).exec_eq

/-- DEC on a live slot (R100). -/
theorem exec_dec_of_live : exec (.dec h) s = .next (s.setDout (slot.decrypt s.din)).done :=
  (ExecResult.decrypted (liveSlot?_eq_some.mpr ⟨hslot, valid⟩)).exec_eq

end

/-- The known-answer vector of the source: the zero block under the zero key of 16 bytes (R94). -/
theorem cipher_zeroKeySchedule : cipher (Vector.replicate 16 0) zeroKeySchedule 10 = exampleOutput := by
  decide +kernel

/-- Settles O35: the two cases of a handle, and the known-answer vector. -/
theorem encCommand : Obligations.EncCommand :=
  ⟨cipher_zeroKeySchedule, fun _ _ => ⟨exec_of_no_live_slot (.inl rfl), fun _ => exec_enc_of_live⟩⟩

/-- Settles O36: the two cases of a handle; InvCipher takes the known-answer vector back, and the other
example is computed. -/
theorem decCommand : Obligations.DecCommand := by
  refine ⟨?_, ?_, fun _ _ => ⟨exec_of_no_live_slot (.inr (.inl rfl)), fun _ => exec_dec_of_live⟩⟩
  · rw [← cipher_zeroKeySchedule, invCipher_cipher]
  · decide +kernel

/-- Settles O37: the two transformations undo each other, and so do the commands that write them to DOUT. -/
theorem decryptUndoesEncrypt : Obligations.DecryptUndoesEncrypt := by
  refine ⟨fun rk nr b => ⟨invCipher_cipher b rk nr, cipher_invCipher b rk nr⟩, fun s h h' slot hslot hslot' valid => ?_⟩
  exact ⟨_, _, exec_enc_of_live hslot valid, exec_dec_of_live hslot' valid, slot.decrypt_encrypt s.din, rfl⟩

/-- Settles O39: DIN may be anything, since the handle alone decides between success and `InvalidContext`. -/
theorem transformsAreTotalOnLiveHandles : Obligations.TransformsAreTotalOnLiveHandles := by
  refine fun s h => ⟨fun slot hslot valid din => ?_, fun i hi => ?_⟩
  · exact ⟨⟨_, exec_enc_of_live (s := { s with din := din }) hslot valid, rfl, rfl⟩,
      _, exec_dec_of_live (s := { s with din := din }) hslot valid, rfl, rfl⟩
  · cases live : s.liveSlot? h with
    | none => exact ⟨_, exec_of_no_live_slot (hi.imp_right .inl) (liveSlot?_eq_none.mp live), .inr rfl⟩
    | some slot =>
      obtain ⟨hslot, valid⟩ := liveSlot?_eq_some.mp live
      obtain rfl | rfl := hi
      · exact ⟨_, exec_enc_of_live hslot valid, .inl rfl⟩
      · exact ⟨_, exec_dec_of_live hslot valid, .inl rfl⟩

/-- Settles O40: the two DOUT are one function of the slot at the two DIN. -/
theorem transformsDependOnInputAndSlotOnly : Obligations.TransformsDependOnInputAndSlotOnly := by
  intro s s' h h' slot valid hslot hslot' din
  exact ⟨⟨_, _, exec_enc_of_live hslot valid, exec_enc_of_live hslot' valid, congrArg slot.encrypt din⟩,
    _, _, exec_dec_of_live hslot valid, exec_dec_of_live hslot' valid, congrArg slot.decrypt din⟩

end Sys2Proof.Machine
end

section
/-! PROOFS. The context lifecycle (R105 to R111): what moves a slot between free and live, RELEASE and its errors, and
KEYEXP and RELEASE one after the other. -/

open Sys2Proof.Reference

namespace Sys2Proof.Machine

/-- Settles O16: a write answers nobody, so its requester is not looked at. -/
theorem writesIgnoreTheRequester : Obligations.WritesIgnoreTheRequester :=
  fun _ _ _ _ _ _ _ => rfl

/-- Whether slot `h` is live is a matter of what the table holds at `h`. -/
theorem live_congr {s t : State} {h : Nat} (same : t.ctx[h]? = s.ctx[h]?) : Live t h ↔ Live s h := by
  rw [Live, Live, same]

/-- A slot that holds the value of a free one is not live (R28, R106). -/
theorem not_live_of_free {s : State} {h : Nat} (free : s.ctx[h]? = some Slot.free) : ¬ Live s h := by
  rintro ⟨slot, hslot, valid⟩
  obtain rfl : Slot.free = slot := Option.some_injective _ (free.symm.trans hslot)
  cases valid

/-- After the reset event no slot is live (R127). -/
theorem not_live_resetEvent (s : State) (h : Nat) : ¬ Live s.resetEvent h := by
  rintro ⟨slot, hslot, valid⟩
  obtain rfl : slot = Slot.free := List.eq_of_mem_replicate (List.mem_of_getElem? hslot)
  cases valid

/-- RELEASE of a live slot (R106). -/
theorem exec_release_of_live {s : State} {h : Nat} (live : Live s h) :
    exec (.release h) s = .next (s.setSlot h Slot.free).done := by
  obtain ⟨slot, hslot⟩ := live
  exact (ExecResult.released (liveSlot?_eq_some.mpr hslot)).exec_eq

/-- A RELEASE without error leaves the value of a free slot where its handle points (R106). -/
theorem getElem?_ctx_of_exec_release {s t : State} {h : Nat} (ht : exec (.release h) s = .next t) (ok : t.err = 0) :
    t.ctx[h]? = some Slot.free := by
  have hr := exec_cases ht
  cases hr with
  | badContext => cases ok
  | released live =>
    obtain ⟨hslot, valid⟩ := liveSlot?_eq_some.mp live
    exact (exec_cases ht).released_slot hslot valid
  | byteOut hi => simp at hi

/-- A released slot is the lowest free one when every slot below it was live (R79, R106). -/
theorem lowestFree_of_exec_release {s t : State} {h : Nat} (live : ∀ j, j ≤ h → Live s j)
    (ht : exec (.release h) s = .next t) : LowestFree t h := by
  have hr := exec_cases ht
  obtain ⟨slot, hslot, valid⟩ := live h le_rfl
  refine ⟨⟨Slot.free, hr.released_slot hslot valid, rfl⟩, fun j below => ?_⟩
  exact (live_congr (hr.release_slot_eq below.ne)).mpr (live j below.le)

/-- Settles O42: the two cases of a handle; in the example slot 0 becomes the lowest free one. -/
theorem releaseCommand : Obligations.ReleaseCommand := by
  intro h s
  refine ⟨exec_of_no_live_slot (.inr (.inr rfl)), fun slot hslot valid => exec_release_of_live ⟨slot, hslot, valid⟩,
    by decide, fun live0 live1 => ?_⟩
  have released := exec_release_of_live live0
  have lowest : LowestFree _ 0 :=
    lowestFree_of_exec_release (fun j hj => by obtain rfl := Nat.le_zero.mp hj; exact live0) released
  have kept : Live _ 1 := (live_congr ((exec_cases released).release_slot_eq (by decide))).mpr live1
  exact ⟨_, _, released, fun live => lowestFree_ne lowest live rfl, kept, rfl,
    exec_keyexp_created (.inl rfl) lowest, rfl, rfl⟩

/-- Settles O43: the handle names a free slot, which ends all three commands with the same error. -/
theorem useAfterReleaseIsMisuse : Obligations.UseAfterReleaseIsMisuse := by
  intro s t h ht ok
  have dead : t.ctx.length ≤ h ∨ ∃ slot, t.ctx[h]? = some slot ∧ slot.valid = false :=
    .inr ⟨Slot.free, getElem?_ctx_of_exec_release ht ok, rfl⟩
  exact ⟨exec_of_no_live_slot (.inr (.inr rfl)) dead, exec_of_no_live_slot (.inl rfl) dead,
    exec_of_no_live_slot (.inr (.inl rfl)) dead⟩

/-- Settles O44: the released slot is the lowest free one, so KEYEXP makes a live context in it. -/
theorem releasedHandleComesBack : Obligations.ReleasedHandleComesBack := by
  intro s h klen live hk
  have released := exec_release_of_live (live h le_rfl)
  have lowest := lowestFree_of_exec_release live released
  have created := exec_keyexp_created hk lowest
  have slot := getElem?_ctx_of_exec_keyexp hk lowest created
  exact ⟨_, _, _, released, created, rfl, rfl, exec_enc_of_live slot (newContext_valid _), rfl, rfl⟩

/-- A handle of 8 bits can be read back from RES (R18, R21). -/
theorem handleWord_toNat {h : Nat} (small : h < 256) : (handleWord h).toNat = h := by
  rw [handleWord, zext32, BitVec.toNat_setWidth, BitVec.toNat_ofNat]
  omega

/-- Settles O45: the invariant gives the lowest free slot the value that RELEASE leaves, and fits its index into RES. -/
theorem createAndDestroyRestoreTheTable : Obligations.CreateAndDestroyRestoreTheTable := by
  intro s klen h inv hk hl
  obtain ⟨⟨slot, hslot, invalid⟩, -⟩ := id hl
  obtain rfl : slot = Slot.free := inv.free slot (List.mem_of_getElem? hslot) invalid
  have inside : h < s.ctx.length := (List.getElem?_eq_some_iff.mp hslot).1
  have small : h < 256 := inside.trans_le inv.nctx.2
  have created := exec_keyexp_created hk hl
  have live : Live _ h := ⟨_, getElem?_ctx_of_exec_keyexp hk hl created, newContext_valid _⟩
  refine ⟨_, _, created, handleWord_toNat small, exec_release_of_live live, ?_⟩
  refine State.ext_fields rfl rfl rfl rfl rfl rfl ?_ rfl rfl
  calc (s.ctx.set h (newContext (s.keyBytes klen))).set h Slot.free
    _ = s.ctx.set h Slot.free := List.set_set ..
    _ = s.ctx := by rw [← (List.getElem?_eq_some_iff.mp hslot).2, List.set_getElem_self]

/-- A command makes a slot live exactly when it is a KEYEXP of an accepted length that finds the slot lowest free
(R80, R105). -/
theorem ExecResult.becomes_live_iff {i : Instr} {s t : State} {h : Nat} (hr : ExecResult i s t) :
    ¬ Live s h ∧ Live t h ↔ ∃ klen, i = .keyexp klen ∧ validKeyLength klen ∧ LowestFree s h := by
  constructor
  · rintro ⟨dead, live⟩
    have written : t.ctx[h]? ≠ s.ctx[h]? := fun same => dead ((live_congr same).mp live)
    obtain hc | ⟨klen, j, rfl, hk, hl, -⟩ | ⟨j, -, live', hc⟩ := hr.ctx_cases
    · exact absurd (congrArg (·[h]?) hc) written
    · obtain rfl : h = j := by_contra fun ne => written (hr.keyexp_slot_eq hl ne)
      exact ⟨klen, rfl, hk, hl⟩
    · have ne : j ≠ h := by rintro rfl; exact dead live'
      exact absurd (by rw [hc, List.getElem?_set_ne ne]) written
  · rintro ⟨klen, rfl, hk, hl⟩
    exact ⟨fun live => lowestFree_ne hl live rfl, _, getElem?_ctx_of_exec_keyexp hk hl hr.exec_eq, newContext_valid _⟩

/-- A live slot outlives every command but RELEASE of it (R105, R106). -/
theorem ExecResult.stays_live_iff {i : Instr} {s t : State} {h : Nat} (hr : ExecResult i s t) (live : Live s h) :
    Live t h ↔ i ≠ .release h := by
  obtain ⟨slot, hslot, valid⟩ := live
  constructor
  · rintro live rfl
    exact not_live_of_free (hr.released_slot hslot valid) live
  · intro hi
    exact ⟨slot, hr.live_slot_eq hslot valid hi, valid⟩

/-- What a write of a legal word to CMD does is what its command does (R19). -/
theorem EventResult.of_command {r : Nat} {c : Word} {i : Instr} {s t : State}
    (hr : EventResult (.access r (.write 4 0 c)) s t) (legal : decode c = .ok i) : ExecResult i s t := by
  cases hr with
  | store _ _ notCmd => exact absurd rfl notCmd
  | command legal' ran =>
    cases legal.symm.trans legal'
    exact exec_cases ran
  | illegal illegal => cases legal.symm.trans illegal

/-- An event makes a slot live exactly when it delivers such a KEYEXP (R105). -/
theorem EventResult.becomes_live_iff {e : Event} {s t : State} {h : Nat} (hr : EventResult e s t) :
    ¬ Live s h ∧ Live t h ↔ ∃ r c klen, e = .access r (.write 4 0x00 c) ∧ decode c = .ok (.keyexp klen) ∧
      validKeyLength klen ∧ LowestFree s h := by
  constructor
  · rintro ⟨dead, live⟩
    cases hr with
    | reset => exact absurd live (not_live_resetEvent s h)
    | read | illegal => exact absurd live dead
    | store => exact absurd ((live_congr (by rw [State.regStore_ctx])).mp live) dead
    | command legal ran =>
      obtain ⟨klen, rfl, hk, hl⟩ := (exec_cases ran).becomes_live_iff.mp ⟨dead, live⟩
      exact ⟨_, _, klen, rfl, legal, hk, hl⟩
  · rintro ⟨r, c, klen, rfl, legal, hk, hl⟩
    exact (hr.of_command legal).becomes_live_iff.mpr ⟨klen, rfl, hk, hl⟩

/-- An event frees a live slot exactly when it is reset or delivers RELEASE of it (R105). -/
theorem EventResult.not_stays_live_iff {e : Event} {s t : State} {h : Nat} (hr : EventResult e s t)
    (live : Live s h) :
    ¬ Live t h ↔ e = .reset ∨ ∃ r c, e = .access r (.write 4 0x00 c) ∧ decode c = .ok (.release h) := by
  constructor
  · intro dead
    cases hr with
    | reset => exact .inl rfl
    | read | illegal => exact absurd live dead
    | store => exact absurd ((live_congr (by rw [State.regStore_ctx])).mpr live) dead
    | command legal ran =>
      obtain rfl := not_not.mp fun hi => dead (((exec_cases ran).stays_live_iff live).mpr hi)
      exact .inr ⟨_, _, rfl, legal⟩
  · rintro (rfl | ⟨r, c, rfl, legal⟩)
    · cases hr
      exact not_live_resetEvent s h
    · exact fun live' => ((hr.of_command legal).stays_live_iff live).mp live' rfl

/-- An event keeps the number of slots (R6, R127). -/
theorem EventResult.ctx_length_eq {e : Event} {s t : State} (hr : EventResult e s t) :
    t.ctx.length = s.ctx.length := by
  cases hr with
  | reset => exact List.length_replicate
  | read | illegal => rfl
  | store => rw [State.regStore_ctx]
  | command _ ran =>
    obtain ⟨-, -, -, -, length⟩ := (exec_cases ran).kept
    exact length

/-- Settles O46: the idle step moves no slot, and any other step is its event. -/
theorem slotLifecycle : Obligations.SlotLifecycle := by
  intro s t h hstep inside
  obtain ⟨idle, rfl⟩ | ⟨e, rest, hp, hr⟩ := step_cases hstep
  · simp [idle, inside]
  · simp only [hp, List.head?_cons, Option.some.injEq]
    exact ⟨inside.trans_eq hr.ctx_length_eq.symm, hr.becomes_live_iff, and_congr_right hr.not_stays_live_iff⟩

end Sys2Proof.Machine
end

section
/-! PROOFS. Errors (R112, R113, R118): which code a command word leaves in ERR and for what cause, that an error writes
STATUS alone, and that an illegal word leaves no mark but ERR. -/

open Sys2Proof.Reference

namespace Sys2Proof.Machine

/-- The cause of each error (R112), for a word that decodes as `d`; no command raises `InvalidBlockLength` (R115). -/
def ErrorCause (d : Except Illegal Instr) (s : State) : Err → Prop
  | .invalidKeyLength => ∃ klen, d = .ok (.keyexp klen) ∧ ¬ validKeyLength klen
  | .invalidBlockLength => False
  | .invalidContext => ∃ h, (d = .ok (.enc h) ∨ d = .ok (.dec h) ∨ d = .ok (.release h)) ∧ ¬ Live s h
  | .noFreeContext => ∃ klen, d = .ok (.keyexp klen) ∧ validKeyLength klen ∧ Full s
  | .illegalCommand => ∃ e, d = .error e

theorem Err.code_injective : Function.Injective Err.code := by
  intro e e'
  cases e <;> cases e' <;> decide

theorem Err.code_ne_zero (e : Err) : e.code ≠ 0 := by cases e <;> decide

theorem Err.code_toNat_le (e : Err) : e.code.toNat ≤ 5 := by cases e <;> decide

/-- A handle names no live slot exactly when its slot is not live (R94, R100, R106). -/
theorem liveSlot?_eq_none_iff_not_live {s : State} {h : Nat} : s.liveSlot? h = none ↔ ¬ Live s h := by
  simp [Option.eq_none_iff_forall_ne_some, liveSlot?_eq_some, Live]

/-- A command raises an error that has its cause, or ends with code 0 and MISUSE as before (R112, R113). -/
theorem ExecResult.raised_or_done {i : Instr} {s t : State} (hr : ExecResult i s t) :
    (∃ e, ErrorCause (.ok i) s e ∧ t = s.raise e) ∨ t.err = 0 ∧ t.misuse = s.misuse := by
  cases hr with
  | badLength bad => exact .inl ⟨.invalidKeyLength, ⟨_, rfl, bad⟩, rfl⟩
  | noFree hk full => exact .inl ⟨.noFreeContext, ⟨_, rfl, hk, lowestFree?_eq_none.mp full⟩, rfl⟩
  | badContext hi dead =>
    exact .inl ⟨.invalidContext, ⟨_, by simpa using hi, liveSlot?_eq_none_iff_not_live.mp dead⟩, rfl⟩
  | _ => exact .inr ⟨by simp, by simp⟩

section
variable {r : Nat} {c : Word} {s t : State}

/-- A write to CMD raises an error that has its cause, or ends with code 0 and MISUSE as before (R112, R113). -/
theorem EventResult.raised_or_done (hr : EventResult (.access r (.write 4 0 c)) s t) :
    (∃ e, ErrorCause (decode c) s e ∧ t = s.raise e) ∨ t.err = 0 ∧ t.misuse = s.misuse := by
  cases hr with
  | store _ _ notCmd => exact absurd rfl notCmd
  | command legal ran => exact legal ▸ (exec_cases ran).raised_or_done
  | illegal illegal => exact .inl ⟨.illegalCommand, ⟨_, illegal⟩, rfl⟩

/-- A write to CMD for which an error has its cause raises that error (R112). -/
theorem EventResult.of_errorCause {e : Err} (cause : ErrorCause (decode c) s e) :
    EventResult (.access r (.write 4 0 c)) s (s.raise e) := by
  cases e with
  | invalidKeyLength =>
    obtain ⟨_, legal, bad⟩ := cause
    exact .command legal (ExecResult.badLength bad).exec_eq
  | invalidBlockLength => exact cause.elim
  | invalidContext =>
    obtain ⟨h, legal, dead⟩ := cause
    obtain ⟨i, legal, hi⟩ : ∃ i, decode c = .ok i ∧ (i = .enc h ∨ i = .dec h ∨ i = .release h) := by
      simpa [and_or_left, exists_or] using legal
    exact .command legal (ExecResult.badContext hi (liveSlot?_eq_none_iff_not_live.mpr dead)).exec_eq
  | noFreeContext =>
    obtain ⟨_, legal, hk, full⟩ := cause
    exact .command legal (ExecResult.noFree hk (lowestFree?_eq_none.mpr full)).exec_eq
  | illegalCommand =>
    obtain ⟨_, illegal⟩ := cause
    exact .illegal illegal

/-- An event has one result. -/
theorem EventResult.unique {e : Event} {t' : State} (hr : EventResult e s t) (hr' : EventResult e s t') : t = t' := by
  have same := hr.happen_eq.symm.trans hr'.happen_eq
  injection same

/-- A write to CMD leaves an error's code exactly when the error has its cause (R112). -/
theorem EventResult.err_eq_code_iff (hr : EventResult (.access r (.write 4 0 c)) s t) (e : Err) :
    t.err = e.code ↔ ErrorCause (decode c) s e := by
  constructor
  · intro code
    obtain ⟨e', cause, rfl⟩ | ⟨ok, -⟩ := hr.raised_or_done
    · exact Err.code_injective code ▸ cause
    · exact absurd (code.symm.trans ok) e.code_ne_zero
  · intro cause
    rw [hr.unique (.of_errorCause cause), State.raise_err]

/-- A write to CMD sets MISUSE with code 3 alone (R20, R113). -/
theorem EventResult.misuse_iff (hr : EventResult (.access r (.write 4 0 c)) s t) :
    t.misuse = true ↔ s.misuse = true ∨ t.err = 3 := by
  obtain ⟨e, cause, rfl⟩ | ⟨ok, misuse⟩ := hr.raised_or_done
  · have byCode : e.isMisuse = true ↔ e.code = 3 := by
      cases e with
      | invalidBlockLength => exact cause.elim
      | _ => decide
    simp [misuseAfter, byCode]
  · simp [ok, misuse]

/-- A write to CMD is never refused: the step goes on (R33, R113). -/
theorem step_cmdWrite {rest : List Event} (hp : s.pending = .access r (.write 4 0 c) :: rest) :
    ∃ t, step s = .next t ∧ EventResult (.access r (.write 4 0 c)) (s.setPending rest) t := by
  rw [step_event hp]
  obtain ⟨_, _, _, he, refused, -⟩ | result := happen_result (s.setPending rest) (.access r (.write 4 0 c))
  · cases he
    cases (Access.refusal?_write rfl (Nat.zero_le _) c).symm.trans refused
  · exact result

end

/-- Settles O49: each code is its error's, and an error is raised exactly when it has its cause. -/
theorem errorCodesAndTheirCauses : Obligations.ErrorCodesAndTheirCauses := by
  intro s requester c rest hp
  obtain ⟨t, ht, hr⟩ := step_cmdWrite hp
  have code := hr.err_eq_code_iff
  refine ⟨t, ht, code .invalidKeyLength, (code .invalidBlockLength).mp, code .invalidContext, code .noFreeContext,
    code .illegalCommand, ?_, hr.misuse_iff⟩
  obtain ⟨e, -, rfl⟩ | ⟨ok, -⟩ := hr.raised_or_done
  · exact e.code_toNat_le
  · simp [ok]

/-- Settles O50: a command that does not end with code 0 has raised an error, which writes STATUS alone. -/
theorem failedCommandsChangeOnlyStatus : Obligations.FailedCommandsChangeOnlyStatus := by
  intro i s t ht failed
  obtain ⟨e, -, rfl⟩ | ⟨ok, -⟩ := (exec_cases ht).raised_or_done
  · rfl
  · exact absurd ok failed

/-- Settles O8: `IllegalCommand` is not of the misuse class. -/
theorem illegalWordRaisesIllegalCommand : Obligations.IllegalWordRaisesIllegalCommand := by
  rintro s requester c rest hp ⟨e, illegal⟩
  rw [step_event hp, (EventResult.illegal illegal).happen_eq, State.raise_recoverable _ rfl]
  rfl

end Sys2Proof.Machine
end

section
/-! PROOFS. Reset and hazards: what clears MISUSE and frees a slot (R127), and the requesters that use only handles they
hold (R109, R131): their holdings stay live, so `InvalidContext` never has its cause (R138). -/

open Sys2Proof.Reference

namespace Sys2Proof.Machine

/-- After a write to CMD, MISUSE is set if it was before, or if the command names a handle that is not live (R20, R113). -/
theorem EventResult.misuse_iff_cause {r : Nat} {c : Word} {s t : State}
    (hr : EventResult (.access r (.write 4 0 c)) s t) :
    t.misuse = true ↔ s.misuse = true ∨ ErrorCause (decode c) s .invalidContext := by
  rw [hr.misuse_iff, ← hr.err_eq_code_iff]; rfl

/-- But for reset, MISUSE is sticky, and only such a write to CMD sets it (R20, R127). -/
theorem EventResult.misuse_iff_of_ne_reset {e : Event} {s t : State} (hr : EventResult e s t) (notReset : e ≠ .reset) :
    t.misuse = true ↔ s.misuse = true ∨
      ∃ r c, e = .access r (.write 4 0 c) ∧ ErrorCause (decode c) s .invalidContext := by
  have result := hr
  cases hr with
  | reset => exact absurd rfl notReset
  | read => simp
  | store _ _ notCmd => simp [notCmd]
  | command | illegal => simpa using result.misuse_iff_cause

/-- Settles O19: the reset event is a case of its own, and of the others none clears MISUSE and only RELEASE frees. -/
theorem resetEventClearsTheBlock : Obligations.ResetEventClearsTheBlock := by
  refine ⟨fun s rest hp => ⟨_, step_event hp, rfl, rfl⟩, fun s t hstep marked cleared => ?_,
    fun s t h hstep live dead => ?_⟩
  · obtain ⟨-, rfl⟩ | ⟨e, rest, hp, hr⟩ := step_cases hstep
    · simp [marked] at cleared
    · rw [hp, List.head?_cons]
      by_contra notReset
      have sticky := (hr.misuse_iff_of_ne_reset (notReset <| congrArg some ·)).mpr (.inl marked)
      simp [cleared] at sticky
  · obtain ⟨-, rfl⟩ | ⟨e, rest, hp, hr⟩ := step_cases hstep
    · exact absurd live dead
    · simpa [hp] using (hr.not_stays_live_iff live).mp dead

/-! ### Held handles -/

/-- An event delivers a command exactly when it is a write of the command's word to CMD (R19, R49). -/
theorem Event.command?_eq_some {e : Event} {i : Instr} :
    e.command? = some i ↔ ∃ r c, e = .access r (.write 4 0 c) ∧ decode c = .ok i := by
  unfold Event.command?
  split
  case h_1 r c => cases hd : decode c <;> simp [hd]
  case h_2 notCmd => simpa using fun r c he => absurd he (notCmd r c)

/-- A requester that uses only handles it holds holds the one that its command names (R109). -/
theorem mem_of_usesHeld {held : List Holding} {r h : Nat} {c : Word}
    (uses : usesHeld held (.access r (.write 4 0 c)) = true)
    (names : decode c = .ok (.enc h) ∨ decode c = .ok (.dec h) ∨ decode c = .ok (.release h)) : (r, h) ∈ held := by
  obtain legal | legal | legal := names <;>
    simpa [usesHeld, Event.command?_eq_some.mpr ⟨r, c, rfl, legal⟩] using uses

/-- A handle held after an event was held before it, and neither reset nor a RELEASE of it ended that; or it is the one
that a KEYEXP returned (R109, R127). -/
theorem mem_heldAfter_cases {held : List Holding} {e : Event} {t : State} {p : Holding}
    (hp : p ∈ heldAfter held e t) :
    (p ∈ held ∧ e ≠ .reset ∧ (e.command? = some (.release p.2) → t.err ≠ 0)) ∨
      ∃ klen, e.command? = some (.keyexp klen) ∧ t.err = 0 ∧ p.2 = t.res.toNat := by
  cases e with
  | reset => cases hp
  | access r a =>
    simp only [heldAfter] at hp
    split at hp
    case h_1 klen hc =>
      split at hp
      case isTrue ok =>
        obtain rfl | hp := List.mem_cons.mp hp
        · exact .inr ⟨klen, hc, ok, rfl⟩
        · exact .inl ⟨hp, by simp, by simp [hc]⟩
      case isFalse => exact .inl ⟨hp, by simp, by simp [hc]⟩
    case h_2 h hc =>
      split at hp
      case isTrue ok =>
        obtain ⟨hp, ne⟩ : p ∈ held ∧ p.2 ≠ h := by simpa using hp
        exact .inl ⟨hp, by simp, by simp [hc, ne.symm]⟩
      case isFalse failed => exact .inl ⟨hp, by simp, fun _ => failed⟩
    case h_3 _ notRelease => exact .inl ⟨hp, by simp, fun hc => absurd hc (notRelease _)⟩

/-- A KEYEXP without error returns in RES the handle of a live slot: every index fits RES[7:0] (R6, R80). -/
theorem ExecResult.live_of_keyexp {klen : Nat} {s t : State} (hr : ExecResult (.keyexp klen) s t) (inv : s.Inv)
    (ok : t.err = 0) : Live t t.res.toNat := by
  have created := hr.exec_eq
  cases hr with
  | badLength | noFree => cases ok
  | badContext hi => simp at hi
  | byteOut hi => simp at hi
  | @created _ _ h hk free =>
    have hl : LowestFree s h := lowestFree?_eq_some.mp free
    obtain ⟨slot, hslot, -⟩ := hl.1
    have small : h < 256 := (List.getElem?_eq_some_iff.mp hslot).1.trans_le inv.nctx.2
    have live : Live _ h := ⟨_, getElem?_ctx_of_exec_keyexp hk hl created, newContext_valid _⟩
    rwa [State.done_res, State.setRes_res, handleWord_toNat small]

/-- A RELEASE of a live slot ends without error (R106). -/
theorem ExecResult.err_of_release {h : Nat} {s t : State} (hr : ExecResult (.release h) s t) (live : Live s h) :
    t.err = 0 := by
  have ran := hr.exec_eq.symm.trans (exec_release_of_live live)
  injection ran with ran
  rw [ran, State.done_err]

/-- Held handles stay live: an event that frees a held slot ends the holding, and one that adds a holding has made its
slot live (R109, R131). -/
theorem EventResult.live_of_mem_heldAfter {held : List Holding} {e : Event} {s t : State} (hr : EventResult e s t)
    (inv : s.Inv) (live : ∀ p ∈ held, Live s p.2) : ∀ p ∈ heldAfter held e t, Live t p.2 := by
  intro p hp
  obtain ⟨before, notReset, kept⟩ | ⟨klen, hc, ok, hres⟩ := mem_heldAfter_cases hp
  · by_contra dead
    obtain reset | ⟨r, c, rfl, legal⟩ := (hr.not_stays_live_iff (live p before)).mp dead
    · exact notReset reset
    · exact kept (Event.command?_eq_some.mpr ⟨r, c, rfl, legal⟩) ((hr.of_command legal).err_of_release (live p before))
  · obtain ⟨r, c, rfl, legal⟩ := Event.command?_eq_some.mp hc
    exact hres ▸ (hr.of_command legal).live_of_keyexp inv ok

/-- An event that uses only held handles, all of them live, does not set MISUSE (R109, R138). -/
theorem EventResult.misuse_of_usesHeld {held : List Holding} {e : Event} {s t : State} (hr : EventResult e s t)
    (live : ∀ p ∈ held, Live s p.2) (clean : s.misuse = false) (uses : usesHeld held e = true) :
    t.misuse = false := by
  obtain rfl | notReset := eq_or_ne e .reset
  · cases hr
    exact s.resetEvent_misuse
  · rw [← Bool.not_eq_true, hr.misuse_iff_of_ne_reset notReset]
    rintro (marked | ⟨r, c, rfl, h, names, dead⟩)
    · simp [clean] at marked
    · exact dead (live _ (mem_of_usesHeld uses names))

/-- Settles O54: the step is its event, which keeps the invariant, keeps held handles live, and sets no MISUSE. -/
theorem disciplinedStepsKeepHeldHandlesLive : Obligations.DisciplinedStepsKeepHeldHandlesLive := by
  intro held s t e rest hp inv live clean uses hstep
  obtain ⟨idle, -⟩ | ⟨e', rest', hp', hr⟩ := step_cases hstep
  · cases hp.symm.trans idle
  · cases hp.symm.trans hp'
    have inv' := inv.setPending rest
    exact ⟨hr.inv inv', hr.live_of_mem_heldAfter inv' live, hr.misuse_of_usesHeld live clean uses⟩

/-! ### Disciplined runs -/

/-- A run with no event to come is disciplined. -/
theorem disciplined_of_idle {s : State} (idle : s.pending = []) (n : Nat) (held : List Holding) :
    disciplined n held s = true := by
  cases n with
  | zero => rfl
  | succ n => simp [disciplined, idle]

/-- A disciplined run begins with a step that goes on, uses a held handle if any, and leaves a disciplined run. -/
theorem disciplined_succ {n : Nat} {held : List Holding} {s : State} {e : Event} {rest : List Event}
    (hp : s.pending = e :: rest) (hd : disciplined (n + 1) held s = true) :
    usesHeld held e = true ∧ ∃ t, step s = .next t ∧ disciplined n (heldAfter held e t) t = true := by
  simp only [disciplined, hp, Bool.and_eq_true] at hd
  obtain ⟨uses, hd⟩ := hd
  cases hs : step s with
  | next t => exact ⟨uses, t, rfl, by simpa [hs] using hd⟩
  | fault f => cases f
  | refused r => simp [hs] at hd

/-- A run is clean when its first step goes on to a state from which the others are clean. -/
theorem cleanRun_succ {s t : State} (hs : step s = .next t) (n : Nat) : cleanRun (n + 1) s = cleanRun n t := by
  unfold cleanRun
  rw [run_succ (M := Sys2Proof.core) hs n]

/-- Settles O55, by induction on the number of steps: each step keeps what the next one needs. -/
theorem disciplinedRunsAreClean : Obligations.DisciplinedRunsAreClean := by
  intro n
  induction n with
  | zero =>
    intro held s _ _ clean _
    simp [cleanRun, Host.Core.run, clean]
  | succ n ih =>
    intro held s inv live clean hd
    cases hp : s.pending with
    | nil =>
      rw [cleanRun_succ (step_idle hp)]
      exact ih held s inv live clean (disciplined_of_idle hp n held)
    | cons e rest =>
      obtain ⟨uses, t, hs, hd'⟩ := disciplined_succ hp hd
      obtain ⟨inv', live', clean'⟩ :=
        disciplinedStepsKeepHeldHandlesLive held s t e rest hp inv live clean uses hs
      rw [cleanRun_succ hs]
      exact ih _ t inv' live' clean' hd'

end Sys2Proof.Machine
end
